-- ==== Sys2Proof/Word.lean ====
section
/-!
DEFINITION. The word types of the engine: widths of 00_scope rule R8, command and response widths of 30_encoding rules R61 and R67.
-/

namespace Sys2Proof

/-- One input element, unsigned 0..255 (R8, decision D6). -/
abbrev Byte := BitVec 8

/-- An accumulator or a weight: 16 bits, unsigned (R8). -/
abbrev Half := BitVec 16

/-- A length, a countdown, a digest or response data: 32 bits, unsigned (R8). -/
abbrev Word := BitVec 32

/-- A command word: 40 bits, always whole (R61, R46). -/
abbrev CmdWord := BitVec 40

/-- A response word: 34 bits, always whole (R67, R46). -/
abbrev RspWord := BitVec 34

end Sys2Proof
end

