-- ==== Sys2Proof/Syntax.lean ====
section
/-!
DEFINITION. The commands of the engine: one constructor per row of spec/opcode_table.json (30_encoding rule R65).
-/

namespace Sys2Proof

/-- A command with the operand bits it reads, at their own widths (R63). The bits a command ignores are no part of it:
"A word that differs from another only in ignored bits is the same command" (R64; log 11). -/
inductive Instr where
  /-- NOP, opcode 0x00 (R90). -/
  | nop
  /-- START, opcode 0x01, `len = operand[31:0]` (R91, R92). -/
  | start (len : Word)
  /-- FEED, opcode 0x02, `c = operand[7:0]` (R100, R101). -/
  | feed (c : Byte)
  /-- READ_DIGEST, opcode 0x03 (R110). -/
  | readDigest
  /-- READ_STATUS, opcode 0x04 (R111). -/
  | readStatus
  /-- READ_REMAINING, opcode 0x05 (R112). -/
  | readRemaining
  /-- CLEAR, opcode 0x06 (R93). -/
  | clear
  deriving DecidableEq, Repr

end Sys2Proof
end

