-- ==== Sys2Proof/WellFormed.lean ====
section
/-!
DEFINITION. The assembler's lines (30_encoding rules R72 and R73) and the checks on their numbers.
A term of `Instr` carries its operand at the width R63 gives it, so every term of `Instr` is well formed; what can be ill formed is a
line of assembler, whose numbers are plain naturals.
-/

namespace Sys2Proof

/-- One line of a command program: a command, a raw word, or a pseudo-instruction (R72, R73). -/
inductive AsmLine where
  /-- `NOP` -/
  | nop
  /-- `START n` -/
  | start (n : Nat)
  /-- `FEED b` -/
  | feed (b : Nat)
  /-- `READ_DIGEST` -/
  | readDigest
  /-- `READ_STATUS` -/
  | readStatus
  /-- `READ_REMAINING` -/
  | readRemaining
  /-- `CLEAR` -/
  | clear
  /-- `.word 0xHH_HHHH_HHHH`: a raw 40-bit word, legal or not -/
  | rawWord (w : Nat)
  /-- `CHECKSUM b0, ..., b(n-1)`: START n, the FEEDs, READ_DIGEST (R73) -/
  | checksum (bs : List Nat)
  /-- `FEEDS b0, ..., b(k-1)`: the FEEDs (R73) -/
  | feeds (bs : List Nat)
  deriving DecidableEq, Repr

/-- A byte value of the assembler is in 0..255 (R72). -/
def byteOk (b : Nat) : Bool := decide (b ≤ 255)

/-- R72 and R73: `n < 2^32` for START, a byte value for FEED, ten hexadecimal digits for `.word`, and at most
`0x7FFF_FFFF` byte values for CHECKSUM. -/
def AsmLine.wellFormed : AsmLine → Bool
  | .start n => decide (n < 2 ^ 32)
  | .feed b => byteOk b
  | .rawWord w => decide (w < 2 ^ 40)
  | .checksum bs => decide (bs.length ≤ 0x7FFFFFFF) && bs.all byteOk
  | .feeds bs => bs.all byteOk
  | .nop => true
  | .readDigest => true
  | .readStatus => true
  | .readRemaining => true
  | .clear => true

end Sys2Proof
end

