-- ==== Sys2Proof/Decode.lean ====
section
/-!
DEFINITION. The decoder, total on every 40-bit word (30_encoding rules R61 to R70), the encoder (R65, R72), the opcode map as a table of
matches and masks (R65), and the words of an assembler line (R72, R73).
-/

namespace Sys2Proof

/-- `cmd_data[39:32]` (R61, R62). -/
def opcodeOf (w : CmdWord) : BitVec 8 := w.extractLsb' 32 8

/-- `cmd_data[31:0]` (R61, R63). -/
def operandOf (w : CmdWord) : Word := w.extractLsb' 0 32

/-- `operand[7:0]` (R63). -/
def operandByte (operand : Word) : Byte := operand.extractLsb' 0 8

/-- What a command word selects: one of the seven commands, or the illegal case, which is named by its opcode (R70). -/
inductive Decoded where
  /-- A command of R65. -/
  | command (i : Instr)
  /-- An opcode in 0x07..0xFF (R68): accepting the word raises ILLEGAL. -/
  | illegal (opcode : BitVec 8)
  deriving DecidableEq, Repr

/-- The opcode alone selects the command (R62, R65); every opcode the map does not name is illegal (R68). -/
def decode (w : CmdWord) : Decoded :=
  if opcodeOf w = 0x00#8 then .command .nop
  else if opcodeOf w = 0x01#8 then .command (.start (operandOf w))
  else if opcodeOf w = 0x02#8 then .command (.feed (operandByte (operandOf w)))
  else if opcodeOf w = 0x03#8 then .command .readDigest
  else if opcodeOf w = 0x04#8 then .command .readStatus
  else if opcodeOf w = 0x05#8 then .command .readRemaining
  else if opcodeOf w = 0x06#8 then .command .clear
  else .illegal (opcodeOf w)

/-- `{opcode, operand}` (R61). -/
def cmdWord (opcode : BitVec 8) (operand : Word) : CmdWord := opcode ++ operand

/-- The word the assembler writes for a command: the ignored bits are 0 (R72). -/
def encode : Instr → CmdWord
  | .nop => cmdWord 0x00#8 0x00000000#32
  | .start len => cmdWord 0x01#8 len
  | .feed c => cmdWord 0x02#8 (c.setWidth 32)
  | .readDigest => cmdWord 0x03#8 0x00000000#32
  | .readStatus => cmdWord 0x04#8 0x00000000#32
  | .readRemaining => cmdWord 0x05#8 0x00000000#32
  | .clear => cmdWord 0x06#8 0x00000000#32

/-- The bits of a word that a command reads: its opcode, and the operand bits R64 does not list as ignored. -/
def usedBits : Instr → CmdWord
  | .nop => 0xFF00000000#40
  | .start _ => 0xFFFFFFFFFF#40
  | .feed _ => 0xFF000000FF#40
  | .readDigest => 0xFF00000000#40
  | .readStatus => 0xFF00000000#40
  | .readRemaining => 0xFF00000000#40
  | .clear => 0xFF00000000#40

/-- A row of the opcode map (R65). -/
structure OpcodeRow where
  mnemonic : String
  matchBits : CmdWord
  maskBits : CmdWord
  deriving DecidableEq, Repr

/-- A word `w` selects the row where `(w & mask) == match` (R65). -/
def rowSelects (r : OpcodeRow) (w : CmdWord) : Bool := w &&& r.maskBits == r.matchBits

/-- The opcode map of R65, row for row. -/
def opcodeTable : List OpcodeRow :=
  [ ⟨"NOP", 0x0000000000#40, 0xFF00000000#40⟩,
    ⟨"START", 0x0100000000#40, 0xFF00000000#40⟩,
    ⟨"FEED", 0x0200000000#40, 0xFF00000000#40⟩,
    ⟨"READ_DIGEST", 0x0300000000#40, 0xFF00000000#40⟩,
    ⟨"READ_STATUS", 0x0400000000#40, 0xFF00000000#40⟩,
    ⟨"READ_REMAINING", 0x0500000000#40, 0xFF00000000#40⟩,
    ⟨"CLEAR", 0x0600000000#40, 0xFF00000000#40⟩ ]

/-- The mnemonic of a command, as R65 and the assembler (R72) spell it. -/
def mnemonicOf : Instr → String
  | .nop => "NOP"
  | .start _ => "START"
  | .feed _ => "FEED"
  | .readDigest => "READ_DIGEST"
  | .readStatus => "READ_STATUS"
  | .readRemaining => "READ_REMAINING"
  | .clear => "CLEAR"

/-- The words a line of assembler stands for (R72), pseudo-instructions expanded (R73). -/
def asmWords : AsmLine → List CmdWord
  | .nop => [encode .nop]
  | .start n => [encode (.start (BitVec.ofNat 32 n))]
  | .feed b => [encode (.feed (BitVec.ofNat 8 b))]
  | .readDigest => [encode .readDigest]
  | .readStatus => [encode .readStatus]
  | .readRemaining => [encode .readRemaining]
  | .clear => [encode .clear]
  | .rawWord w => [BitVec.ofNat 40 w]
  | .checksum bs =>
    encode (.start (BitVec.ofNat 32 bs.length)) :: (bs.map fun b => encode (.feed (BitVec.ofNat 8 b))) ++ [encode .readDigest]
  | .feeds bs => bs.map fun b => encode (.feed (BitVec.ofNat 8 b))

/-- The command of an instruction given as a number: the engine takes its 40-bit word whole, so the word's bits are numbered as
30_encoding numbers them (R9, R61; log 12). -/
def decodeTableWord (nbits w : Nat) : Option Instr :=
  match decode (BitVec.ofNat 40 (w % 2 ^ nbits)) with
  | .command i => some i
  | .illegal _ => none

end Sys2Proof
end

