-- ==== Sys2Proof/Config.lean ====
section
/-!
DEFINITION. What the spec fixes for the engine as a whole, and what it leaves open. Of the OPEN parameters of 00_scope rule R8, RSP_LATENCY
stands here; CMD_READY_POLICY is an argument of each step: see `PortEdge.cmdReady` in Machine/State.lean (log 2).
-/

namespace Sys2Proof

/-- The smallest length START refuses, `0x8000_0000` (R92, decision D7). -/
def Config.lenLimit : Word := 0x80000000#32

/-- DESIGN CHOICE (log 6), safe: `dec32 0`. R84 defines `dec32` for `r >= 1` only, so this is a free value: no proof can learn it.
It is read only when PHASE is RUN and REM is 0, which no run reaches (R25, R26). -/
opaque Config.dec32AtZero : Word

/-- The clock cycles RSP_LATENCY has beyond its first. OPEN (R8, 93_implementation_defined U3), so it has no body: no proof can learn it. -/
opaque Config.rspWait : Nat

/-- RSP_LATENCY: "the number of clock cycles from command acceptance to response valid, an integer >= 1" (R8, U3). One number for the whole
engine, whatever the command (DESIGN CHOICE, log 2). -/
def Config.rspLatency : Nat := Config.rspWait + 1

end Sys2Proof
end

