-- ==== Sys2Proof/Machine/Operands.lean ====
section
/-!
DEFINITION. The operand values commands compute with (30_encoding rule R63) and the datapath primitives of 40_datapath (R80 to R85).
-/

namespace Sys2Proof.Machine

/-- `c` of FEED as an addend, `zext_16(operand[7:0])` (R63, R100, decision D6). -/
def byteAddend (c : Byte) : Half := c.setWidth 16

/-- The weight of a byte, `REM[15:0]` (R81, R100, decision D8). -/
def weightOf (rem : Word) : Half := rem.extractLsb' 0 16

/-- START refuses the length: `len >= 0x8000_0000`, unsigned (R63, R92). -/
def lenTooLarge (len : Word) : Bool := decide (Config.lenLimit ≤ len)

/-- The 16bit_wraparound_adder: `trunc_16(zext_17(a) + zext_17(b))` (R80). -/
def add16 (a b : Half) : Half := (a.setWidth 17 + b.setWidth 17).setWidth 16

/-- The weight product: the low 16 bits of the exact 24-bit product (R81). -/
def wmul (w : Half) (c : Byte) : Half := (w.setWidth 24 * c.setWidth 24).setWidth 16

/-- The countdown, `r - 1` for `r >= 1` (R84); outside that domain a free value (log 6). -/
def dec32 (r : Word) : Word := if r = 0#32 then Config.dec32AtZero else r - 1#32

/-- The digest packing `{a, b}` (R85). -/
def pack (a b : Half) : Word := a ++ b

/-- Byte `k` of a digest word, `D[31-8k : 24-8k]` (R44). -/
def digestByte (d : Word) (k : Fin 4) : Byte := d.extractLsb' (24 - 8 * k.val) 8

end Sys2Proof.Machine
end

