-- ==== Sys2Proof/Machine/State.lean ====
section
/-!
DEFINITION. The state of the engine (10_state rules R20 to R30), the state of its two ports (30_encoding rule R60), and the reset state
(70_reset_and_hazards rule R140).
-/

namespace Sys2Proof.Machine

/-- PHASE (R26): the progress of a computation. -/
inductive Phase where
  /-- 0b00: no computation, after reset or CLEAR. -/
  | idle
  /-- 0b01: a computation is in progress. -/
  | run
  /-- 0b10: the computation has received all its bytes. -/
  | done
  /-- 0b11: never produced (R26); a state that holds it is refused (93_implementation_defined U2; log 5). -/
  | reserved
  deriving DecidableEq, Repr

/-- The two-bit codes that ERR (R27) and the code field of a response (R67) share. -/
inductive Code where
  /-- 0b00: OK in a response, NONE in ERR. -/
  | ok
  /-- 0b01: ILLEGAL. -/
  | illegal
  /-- 0b10: PROTOCOL. -/
  | protocol
  /-- 0b11: TOO_LARGE. -/
  | tooLarge
  deriving DecidableEq, Repr

/-- A response word's two fields (R67). -/
structure Response where
  code : Code
  data : Word
  deriving DecidableEq, Repr

/-- The ports' values at one rising edge of `clk` (R60). The first four fields are the host's. The last is the engine's OPEN choice at this
edge, an argument of the step (R8; log 2). -/
structure PortEdge where
  /-- `rst` -/
  rst : Bool
  /-- `cmd_valid` -/
  cmdValid : Bool
  /-- `cmd_data` -/
  cmdData : CmdWord
  /-- `rsp_ready` -/
  rspReady : Bool
  /-- `cmd_ready`, as CMD_READY_POLICY sets it at this edge: "an arbitrary host-visible stall" (R8, U4), whose weak fairness is
  `FairCommandPort` in Safety.lean (log 2). DESIGN CHOICE (log 14), safe: it may be low at an edge that offers an illegal word, as for any
  word. R68's "illegal opcodes are never held off on the port" is read as: no word is held off because it is illegal. -/
  cmdReady : Bool
  deriving DecidableEq, Repr

/-- Everything the spec gives the engine, and the model's own host side. -/
structure State where
  /-- SUMA (R23) -/
  sumA : Half
  /-- SUMB (R24) -/
  sumB : Half
  /-- REM (R25) -/
  rem : Word
  /-- PHASE (R26) -/
  phase : Phase
  /-- ERR (R27) -/
  err : Code
  /-- RSPQ (R30), the front first -/
  rspq : List Response
  /-- for each response of RSPQ, in the same order, the clock cycles of RSP_LATENCY still to pass before `rsp_valid` may rise for it
  (R8, R60; log 2) -/
  rspDelays : List Nat
  /-- the command word the host has offered and the engine has not accepted (R60, R151; log 4) -/
  cmdHeld : Option CmdWord
  /-- the rising edges to come, the next first: the host's drive and CMD_READY_POLICY's choices (R60, R151; log 1) -/
  edges : List PortEdge
  /-- the responses the host has received, the oldest first (R148; log 8) -/
  taken : List Response
  deriving DecidableEq, Repr

/-- Why the machine stops with a fault: never. "A model of the engine alone therefore has no fault outcome and no stuck outcome for any
command" (60_exceptions rule R136), so there is no constructor. -/
inductive Fault
  deriving DecidableEq, Repr

/-- Why the model has no move. -/
inductive Refusal where
  /-- Raised by an arm of `exec` for an instruction without a meaning; safe. No arm of this model raises it. -/
  | notModelled (mnemonic : String)
  /-- Raised by every command and by every edge without reset at a state with PHASE = 0b11, which no rule produces
  (93_implementation_defined U2 "must refuse it rather than pick a behaviour"); safe (log 5). -/
  | reservedPhase
  /-- Raised by an edge at which the host withdraws or changes a command it has offered and the engine has not accepted
  (R60, R151 "has no move in the model, which is the refusal"); unsafe, as R151 says: a premise of claims (log 4). -/
  | commandNotHeld
  deriving DecidableEq, Repr

/-- The machine right after reset (R140). The ports' fields and the host side start empty (log 8). -/
def State.reset : State where
  sumA := 0x0000#16
  sumB := 0x0000#16
  rem := 0x00000000#32
  phase := .idle
  err := .ok
  rspq := []
  rspDelays := []
  cmdHeld := none
  edges := []
  taken := []

end Sys2Proof.Machine
end

