-- ==== Sys2Proof/Machine/Flags.lean ====
section
/-!
DEFINITION. The encodings of PHASE, ERR and the response code, the STATUS view, and every computation of PHASE (10_state rules R26 to R28,
30_encoding rule R67).
-/

namespace Sys2Proof.Machine

/-- The encoding of PHASE (R26). -/
def Phase.bits : Phase → BitVec 2
  | .idle => 0b00#2
  | .run => 0b01#2
  | .done => 0b10#2
  | .reserved => 0b11#2

/-- The encoding of ERR (R27) and of a response's code (R67). -/
def Code.bits : Code → BitVec 2
  | .ok => 0b00#2
  | .illegal => 0b01#2
  | .protocol => 0b10#2
  | .tooLarge => 0b11#2

/-- The 34-bit response word `{code, data}` (R67). -/
def Response.bits (r : Response) : RspWord := r.code.bits ++ r.data

/-- `zext_32({ERR, PHASE})` (R28). -/
def statusWord (e : Code) (p : Phase) : Word := (e.bits ++ p.bits).setWidth 32

/-- STATUS, a view of ERR and PHASE (R28). -/
def State.status (s : State) : Word := statusWord s.err s.phase

/-- PHASE after an accepted START: `(len == 0) ? DONE : RUN` (R91). -/
def phaseAfterStart (len : Word) : Phase := if len = 0#32 then .done else .run

/-- PHASE after an accepted FEED: `(REM == 1) ? DONE : RUN`, REM read before the write (R100). -/
def phaseAfterFeed (rem : Word) : Phase := if rem = 1#32 then .done else .run

end Sys2Proof.Machine
end

