-- ==== Sys2Proof/Machine/Ops.lean ====
section
/-!
DEFINITION. The operations every command is made of: writing registers, `respond`, `raise Error`, reset, and the guard on a reserved PHASE.
The engine has no memory (20_memory rule R40) and no trap entry or return (60_exceptions rules R127, R128): `raiseError` is all an error does.
-/

namespace Sys2Proof.Machine

/-- The two accumulators of the dual_modular_accumulator take new values together (R2, R10). -/
def State.setSums (s : State) (a b : Half) : State := { s with sumA := a, sumB := b }

/-- `REM <- r`. -/
def State.setRem (s : State) (r : Word) : State := { s with rem := r }

/-- `PHASE <- p`. -/
def State.setPhase (s : State) (p : Phase) : State := { s with phase := p }

/-- `ERR <- e`. -/
def State.setErr (s : State) (e : Code) : State := { s with err := e }

/-- `respond(code, data)`: the command's single response, appended at the end of RSPQ (R10, R30, R66). -/
def State.respond (s : State) (code : Code) (data : Word) : State := { s with rspq := s.rspq ++ [⟨code, data⟩] }

/-- `respond(code, STATUS)` with the STATUS of the state it is applied to, which is the one after the command's writes. -/
def State.respondStatus (s : State) (code : Code) : State := s.respond code s.status

/-- `raise Error(code)`: ERR takes the code, the response carries it with STATUS after the write, nothing else changes (R121). -/
def State.raiseError (s : State) (code : Code) : State := (s.setErr code).respondStatus code

/-- Every register at its reset value, RSPQ kept: the writes of CLEAR (R93), and part of reset (R140). -/
def State.clearRegs (s : State) : State :=
  (((s.setSums 0x0000#16 0x0000#16).setRem 0x00000000#32).setPhase .idle).setErr .ok

/-- A reset edge: the registers of R140, RSPQ emptied (R141), no delay pending, so that `rsp_valid` is low after it.
A command that was offered and not accepted is forgotten (log 4). What the host has received stays received. -/
def State.resetEngine (s : State) : State :=
  { s.clearRegs with rspq := [], rspDelays := [], cmdHeld := none }

/-- One atomic command step (R48), refused at a state with PHASE = 0b11 (93_implementation_defined U2; log 5). -/
def command (s : State) (effect : State → State) : Host.Outcome State Fault Refusal :=
  if s.phase = .reserved then .refused .reservedPhase else .next (effect s)

end Sys2Proof.Machine
end

