-- ==== Sys2Proof/Machine/Accumulate.lean ====
section
/-!
DEFINITION. The accumulate command FEED, the step of the dual_modular_accumulator (42_accumulate rules R100 and R101).
-/

namespace Sys2Proof.Machine

/-- The writes of an accepted FEED: every right side reads the state before the command (R10, R100). -/
def State.feedWrites (s : State) (c : Byte) : State :=
  ((s.setSums (add16 s.sumA (byteAddend c)) (add16 s.sumB (wmul (weightOf s.rem) c))).setRem (dec32 s.rem)).setPhase
    (phaseAfterFeed s.rem)

/-- FEED: one byte of the computation in RUN (R100), PROTOCOL in any other phase (R101). -/
def execFeed (c : Byte) (s : State) : Host.Outcome State Fault Refusal :=
  command s fun s =>
    if s.phase = .run then (s.feedWrites c).respondStatus .ok else s.raiseError .protocol

end Sys2Proof.Machine
end

