-- ==== Sys2Proof/Machine/Readout.lean ====
section
/-!
DEFINITION. The readout commands READ_DIGEST, READ_STATUS and READ_REMAINING (43_readout rules R110 to R112).
-/

namespace Sys2Proof.Machine

/-- READ_DIGEST: the data is `{SUMA, SUMB}` (R110). -/
def execReadDigest (s : State) : Host.Outcome State Fault Refusal :=
  command s fun s => s.respond .ok (pack s.sumA s.sumB)

/-- READ_STATUS: the code is OK whatever ERR holds, and ERR is not cleared (R111). -/
def execReadStatus (s : State) : Host.Outcome State Fault Refusal :=
  command s fun s => s.respond .ok s.status

/-- READ_REMAINING (R112). -/
def execReadRemaining (s : State) : Host.Outcome State Fault Refusal :=
  command s fun s => s.respond .ok s.rem

end Sys2Proof.Machine
end

