-- ==== Sys2Proof/Machine/Session.lean ====
section
/-!
DEFINITION. The session commands NOP, START and CLEAR (41_session rules R90 to R93), and the acceptance of an illegal word
(60_exceptions rule R122).
-/

namespace Sys2Proof.Machine

/-- NOP (R90). -/
def execNop (s : State) : Host.Outcome State Fault Refusal :=
  command s fun s => s.respond .ok 0x00000000#32

/-- The writes of an accepted START (R91). -/
def State.startWrites (s : State) (len : Word) : State :=
  (((s.setSums 0x0000#16 0x0000#16).setRem len).setPhase (phaseAfterStart len)).setErr .ok

/-- START: refused with TOO_LARGE (R92), or begins a computation of `len` bytes (R91). -/
def execStart (len : Word) (s : State) : Host.Outcome State Fault Refusal :=
  command s fun s =>
    if lenTooLarge len then s.raiseError .tooLarge else (s.startWrites len).respondStatus .ok

/-- CLEAR (R93): RSPQ is kept, and the response carries STATUS after the write. -/
def execClear (s : State) : Host.Outcome State Fault Refusal :=
  command s fun s => s.clearRegs.respondStatus .ok

/-- Accepting a word with an opcode in 0x07..0xFF raises ILLEGAL; the opcode is not recorded (R68, R122). -/
def execIllegal (s : State) : Host.Outcome State Fault Refusal :=
  command s fun s => s.raiseError .illegal

end Sys2Proof.Machine
end

