-- ==== Sys2Proof/Machine/Dispatch.lean ====
section
/-!
DEFINITION. One arm per command of the opcode map (30_encoding rule R65).
-/

namespace Sys2Proof.Machine

/-- The meaning of each command. -/
def exec (i : Instr) (s : State) : Host.Outcome State Fault Refusal :=
  match i with
  | .nop => Sys2Proof.Machine.execNop s
  | .start len => Sys2Proof.Machine.execStart len s
  | .feed c => Sys2Proof.Machine.execFeed c s
  | .readDigest => Sys2Proof.Machine.execReadDigest s
  | .readStatus => Sys2Proof.Machine.execReadStatus s
  | .readRemaining => Sys2Proof.Machine.execReadRemaining s
  | .clear => Sys2Proof.Machine.execClear s

end Sys2Proof.Machine
end

