-- ==== Sys2Proof/Machine/Port.lean ====
section
/-!
DEFINITION. The command and response ports (30_encoding rule R60): acceptance of a word, transfer of a response, the outputs, and one rising
edge of `clk`.
-/

namespace Sys2Proof.Machine

/-- Accepting a command word runs the command it selects, or raises ILLEGAL (R62, R68, R70). -/
def acceptWord (w : CmdWord) (s : State) : Host.Outcome State Fault Refusal :=
  match decode w with
  | .command i => exec i s
  | .illegal _ => execIllegal s

/-- The words accepted one after another, each seeing every effect of those before it (R50). -/
def acceptAll : List CmdWord → State → Host.Outcome State Fault Refusal
  | [], s => .next s
  | w :: ws, s =>
    match acceptWord w s with
    | .next t => acceptAll ws t
    | .fault r => .fault r
    | .refused r => .refused r

/-- The host offers a command word at an edge. -/
def offerEdge (w : CmdWord) : PortEdge where
  rst := false
  cmdValid := true
  cmdData := w
  rspReady := false
  cmdReady := true

/-- A command is accepted at an edge where `rst == 0`, `cmd_valid == 1` and `cmd_ready == 1` (R60). -/
def PortEdge.accepts (e : PortEdge) : Bool := !e.rst && e.cmdValid && e.cmdReady

/-- `rsp_valid`: RSPQ has a front, and RSP_LATENCY has passed for it (R60; log 2). -/
def State.rspValid (s : State) : Bool := !s.rspq.isEmpty && s.rspDelays.head? == some 0

/-- The outputs the host samples at an edge (R60). `rspData` is `none` while `rsp_valid` is 0, when the spec gives it no value (log 9). -/
structure PortOutputs where
  cmdReady : Bool
  rspValid : Bool
  rspData : Option RspWord
  digestO : Word
  phaseO : BitVec 2
  deriving DecidableEq, Repr

/-- `digest_o`, a view of the accumulators (R32). -/
def State.digestO (s : State) : Word := pack s.sumA s.sumB

/-- `phase_o`, a view of PHASE (R32). -/
def State.phaseO (s : State) : BitVec 2 := s.phase.bits

/-- The outputs at an edge, from the state the commands before it left (R32, R60). -/
def State.outputs (s : State) (e : PortEdge) : PortOutputs where
  cmdReady := e.cmdReady
  rspValid := s.rspValid
  rspData := if s.rspValid then s.rspq.head?.map Response.bits else none
  digestO := s.digestO
  phaseO := s.phaseO

/-- One clock cycle passes for the responses behind these delays (log 2). -/
def cyclePasses (ds : List Nat) : List Nat := ds.map Nat.pred

/-- The response port at an edge: where `rsp_valid == 1` and `rsp_ready == 1` the front leaves RSPQ for the host, with its delay; one clock
cycle passes for every response that stays, and a response whose RSP_LATENCY has passed stays valid (R60). -/
def State.transfer (s : State) (e : PortEdge) : State :=
  if s.rspValid && e.rspReady then
    { s with
      rspq := s.rspq.tail
      taken := s.taken ++ s.rspq.head?.toList
      rspDelays := cyclePasses s.rspDelays.tail }
  else { s with rspDelays := cyclePasses s.rspDelays }

/-- The host still offers the word it has offered and the engine has not accepted (R60, R151). -/
def State.commandHeld (s : State) (e : PortEdge) : Bool :=
  match s.cmdHeld with
  | none => true
  | some w => e.cmdValid && e.cmdData == w

/-- The word the host must go on offering after an edge. -/
def State.setHeld (s : State) (h : Option CmdWord) : State := { s with cmdHeld := h }

/-- At an acceptance no word is held any more, and the response the command is about to append will be valid RSP_LATENCY cycles later
(R8, R60; log 2). -/
def State.beginAccept (s : State) : State := { s with cmdHeld := none, rspDelays := s.rspDelays ++ [Config.rspWait] }

/-- The command port at an edge without reset: the offered word is accepted, or stays offered, or there is none (R60). Whether a word is
legal plays no part in its acceptance: an illegal word is accepted at the very edges at which a legal one would be (R68 as read in log 14,
DESIGN CHOICE, safe). -/
def commandPort (e : PortEdge) (s : State) : Host.Outcome State Fault Refusal :=
  if e.accepts then acceptWord e.cmdData s.beginAccept
  else .next (s.setHeld (if e.cmdValid then some e.cmdData else none))

/-- One rising edge of `clk`. The response port moves first, on RSPQ as it stood before the edge (log 10); reset comes before every command
(R125), from any state at all (R142); an edge without reset is refused where PHASE is reserved (log 5) or the host breaks its duty (log 4). -/
def clockEdge (e : PortEdge) (s : State) : Host.Outcome State Fault Refusal :=
  if e.rst then .next (s.transfer e).resetEngine
  else if s.phase = .reserved then .refused .reservedPhase
  else if s.commandHeld e then commandPort e (s.transfer e)
  else .refused .commandNotHeld

/-- The edges still to come. -/
def State.setEdges (s : State) (es : List PortEdge) : State := { s with edges := es }

/-- The next rising edge, if one is listed; with no edge listed nothing happens, since every state change happens at a rising edge
(R60; log 1). -/
def nextEdge (s : State) : Host.Outcome State Fault Refusal :=
  match s.edges with
  | [] => .next s
  | e :: rest => clockEdge e (s.setEdges rest)

/-- The host's next edge offers `w` and the engine accepts it there. -/
def State.withOffer (s : State) (w : CmdWord) : State :=
  { s with edges := offerEdge w :: s.edges, cmdHeld := none }

end Sys2Proof.Machine
end

