-- ==== Sys2Proof/Machine/Step.lean ====
section
/-!
DEFINITION. One step of the machine: one rising edge of `clk` (30_encoding rule R60; log 1).
-/

namespace Sys2Proof.Machine

/-- One rising edge. -/
def step (s : State) : Host.Outcome State Fault Refusal := nextEdge s

/-- `s` with the instruction offered and accepted at its next edge: the engine fetches nothing (R22), so this stands for the host's
issuing of the command (log 1). -/
def State.withFetchWord (s : State) (nbits w : Nat) : State :=
  s.withOffer (BitVec.ofNat 40 (w % 2 ^ nbits))

end Sys2Proof.Machine
end

