-- ==== Sys2Proof/Machine/Reference.lean ====
section
/-!
DEFINITION. The reference function the engine must match (00_scope rule R13) and the sums its closed forms are written with (R14, R102).
The engine's own step does not use this file.
-/

namespace Sys2Proof.Machine

/-- The loop of R13 over naturals: both sums reduced modulo 65536 at every byte, the product exact before the reduction. -/
def referenceLoop : List Byte → Nat → Nat → Nat → Nat × Nat
  | [], sumA, sumB, _ => (sumA, sumB)
  | c :: cs, sumA, sumB, remaining =>
    referenceLoop cs ((sumA + c.toNat) % 65536) ((sumB + remaining * c.toNat) % 65536) (remaining - 1)

/-- `compute(data)` as a 32-bit value, `{sumA, sumB}` (R13). -/
def compute (data : List Byte) : Word :=
  let sums := referenceLoop data 0 0 data.length
  BitVec.ofNat 16 sums.1 ++ BitVec.ofNat 16 sums.2

/-- `sum_{i<k} data[i]`, the `k`-th prefix sum (R14). -/
def prefixSum (data : List Byte) (k : Nat) : Nat :=
  ∑ i ∈ Finset.range k, (data.getD i 0#8).toNat

/-- `sum_{i<k} (len - i) * data[i]`, the weights those of a computation of length `len` (R14, R102). -/
def weightedSum (len : Nat) (data : List Byte) (k : Nat) : Nat :=
  ∑ i ∈ Finset.range k, (len - i) * (data.getD i 0#8).toNat

/-- `sum_{k=1}^{n} A_k`, the sum of the first `n` prefix sums (R14). -/
def prefixForm (data : List Byte) (n : Nat) : Nat :=
  ∑ k ∈ Finset.range n, prefixSum data (k + 1)

end Sys2Proof.Machine
end

