-- ==== Sys2Proof/Safety.lean ====
section
/-!
DEFINITION. The terms claims about the engine use: the invariant of reachable states (10_state rules R25 and R26), `clean_entry` (70_reset
rule R149), the end of a host program (R148), error responses (60_exceptions rule R136), what the host has had accepted, and the weak
fairness of the command port (00_scope rule R8, 70_reset rule R147).
-/

namespace Sys2Proof.Machine

/-- What holds in every reachable state: PHASE is legal, RUN exactly when bytes are expected, IDLE only with zero registers, REM within the
accepted lengths (R25, R26); and each queued response has its delay, below RSP_LATENCY (R8; log 2). -/
abbrev State.Consistent (s : State) : Prop :=
  s.phase ≠ .reserved ∧
  (s.phase = .run ↔ 1#32 ≤ s.rem) ∧
  (s.phase = .idle → s.sumA = 0x0000#16 ∧ s.sumB = 0x0000#16 ∧ s.rem = 0x00000000#32) ∧
  s.rem ≤ 0x7FFFFFFF#32 ∧
  s.rspDelays.length = s.rspq.length ∧
  ∀ d ∈ s.rspDelays, d < Config.rspLatency

/-- `clean_entry` (R149). -/
abbrev State.CleanEntry (s : State) : Prop :=
  s.sumA = 0x0000#16 ∧ s.sumB = 0x0000#16 ∧ s.rem = 0x00000000#32 ∧ s.phase = .idle ∧ s.err = .ok ∧ s.rspq = []

/-- Two states whose five registers agree. -/
abbrev SameRegs (s t : State) : Prop :=
  s.sumA = t.sumA ∧ s.sumB = t.sumB ∧ s.rem = t.rem ∧ s.phase = t.phase ∧ s.err = t.err

/-- Two states whose ports and host side agree, RSPQ apart: no command touches these. -/
abbrev SamePorts (s t : State) : Prop :=
  s.rspDelays = t.rspDelays ∧ s.cmdHeld = t.cmdHeld ∧ s.edges = t.edges ∧ s.taken = t.taken

/-- The words accepted at a list of edges, in order (R60). -/
def acceptedWords (es : List PortEdge) : List CmdWord :=
  (es.filter PortEdge.accepts).map PortEdge.cmdData

/-- A word that changes none of SUMA, SUMB and REM: NOP, a read command, or an illegal word (R95). -/
def readsOnly (w : CmdWord) : Bool :=
  match decode w with
  | .command .nop => true
  | .command .readDigest => true
  | .command .readStatus => true
  | .command .readRemaining => true
  | .illegal _ => true
  | .command (.start _) => false
  | .command (.feed _) => false
  | .command .clear => false

/-- What a stream of words selects, the words that change no sum left out (R95). -/
def sessionCommands (ws : List CmdWord) : List Decoded :=
  (ws.filter fun w => !readsOnly w).map decode

/-- START `len` and then one FEED for each byte, the order R95 and R102 ask for. -/
def computationOf (len : Nat) (data : List Byte) : List Decoded :=
  .command (.start (BitVec.ofNat 32 len)) :: data.map fun c => .command (.feed c)

/-- A host program has ended: every command it issued has been accepted and RSPQ is empty (R148). -/
abbrev State.hostEnded (s : State) : Prop :=
  s.cmdHeld = none ∧ (∀ e ∈ s.edges, e.cmdValid = false) ∧ s.rspq = []

/-- The host program's observation at its end, beside the final state: the responses it received (R148). -/
def State.observation (s : State) : List Response := s.taken

/-- "No error response", the premise a host program's claims may take (R136). -/
abbrev State.noErrorResponse (s : State) : Prop :=
  ∀ r ∈ s.taken ++ s.rspq, r.code = .ok

/-- Weak fairness of CMD_READY_POLICY, "a host that holds `cmd_valid` is eventually served" (R147; R8, U4, D22): a host that offers
a command at every edge from some edge on, without reset, finds `cmd_ready` high at one of them. It is a premise of claims about what is
eventually accepted; no other claim needs it (log 2). -/
def FairCommandPort (es : Nat → PortEdge) : Prop :=
  ∀ n, (∀ m, n ≤ m → (es m).rst = false ∧ (es m).cmdValid = true) → ∃ m, n ≤ m ∧ (es m).cmdReady = true

/-- The first `n` edges of an endless drive. -/
def firstEdges (es : Nat → PortEdge) (n : Nat) : List PortEdge := (List.range n).map es

/-- The host offers `w`, without reset, at every edge up to the one that accepts it, as R60 obliges it to; after that edge it does what it
likes. -/
def OffersUntilAccepted (w : CmdWord) (es : Nat → PortEdge) : Prop :=
  ∀ n, (∀ k, k < n → (es k).accepts = false) → (es n).rst = false ∧ (es n).cmdValid = true ∧ (es n).cmdData = w

end Sys2Proof.Machine
end

