-- ==== Sys2Proof/Certificates/Slice0/Obligations.lean ====
section
/-!
DEFINITION. What is claimed of the engine, for the provers. Each statement names the rules of spec/ it formalises; OBLIGATIONS.json lists
them. `s.phase ≠ .reserved` is the premise of 93_implementation_defined U2: a state with PHASE = 0b11 is refused.
-/

open Sys2Proof Sys2Proof.Machine

/-! ### The datapath (40_datapath) -/

/-- R80: the 16bit_wraparound_adder. -/
def Obligations.Add16WrapsModulo65536 : Prop :=
  (∀ a b : Half, (add16 a b).toNat = (a.toNat + b.toNat) % 65536 ∧
    add16 a b = (a.setWidth 17 + b.setWidth 17).setWidth 16 ∧
    add16 a b = add16 b a ∧ add16 a 0x0000#16 = a) ∧
  (∀ a b c : Half, add16 (add16 a b) c = add16 a (add16 b c)) ∧
  add16 0xFFFF#16 0x0001#16 = 0x0000#16 ∧ add16 0xFFFF#16 0xFFFF#16 = 0xFFFE#16 ∧
  add16 0x0082#16 0x0042#16 = 0x00C4#16

/-- R81: the weight product, and the weight the engine calls it with. -/
def Obligations.WmulKeepsLow16BitsOfProduct : Prop :=
  (∀ (w : Half) (c : Byte), (wmul w c).toNat = (w.toNat * c.toNat) % 65536 ∧ w.toNat * c.toNat ≤ 0xFEFF01 ∧
    wmul w 0x00#8 = 0x0000#16 ∧ wmul 0x0000#16 c = 0x0000#16) ∧
  wmul 0xFFFF#16 0xFF#8 = 0xFF01#16 ∧ wmul 0x0100#16 0xFF#8 = 0xFF00#16 ∧ wmul 0x0002#16 0x41#8 = 0x0082#16 ∧
  (∀ k : Nat, (BitVec.ofNat 32 (0x10000 * k)).extractLsb' 0 16 = 0x0000#16) ∧
  (∀ (s t : State) (c : Byte), s.phase = .run → exec (.feed c) s = .next t →
    t.sumB = add16 s.sumB (wmul (s.rem.extractLsb' 0 16) c))

/-- R82: the 16-bit weight and the 16-bit product give the sum of the exact product, and so does a product reduced modulo any
`2^k` with `k >= 16`. -/
def Obligations.WeightWidthDoesNotMatter : Prop :=
  ∀ (sumB : Half) (rem : Word) (c : Byte),
    (add16 sumB (wmul (rem.extractLsb' 0 16) c)).toNat = (sumB.toNat + rem.toNat * c.toNat) % 65536 ∧
    ∀ k : Nat, 16 ≤ k →
      (sumB.toNat + (rem.toNat * c.toNat) % 2 ^ k) % 65536 = (add16 sumB (wmul (rem.extractLsb' 0 16) c)).toNat

/-- R84: the countdown, and that FEED is where the engine applies it, in RUN, where REM is at least 1. -/
def Obligations.CountdownDecrements : Prop :=
  (∀ r : Word, 1#32 ≤ r → (dec32 r).toNat = r.toNat - 1 ∧ dec32 r ≠ 0xFFFFFFFF#32) ∧
  dec32 2#32 = 1#32 ∧
  (∀ s : State, s.Consistent → s.phase = .run → 1#32 ≤ s.rem) ∧
  (∀ (s t : State) (c : Byte), exec (.feed c) s = .next t → t.rem = if s.phase = .run then dec32 s.rem else s.rem)

/-- R85 and R44: the digest word and its bytes, big-endian. -/
def Obligations.PackOrdersDigestBytes : Prop :=
  (∀ a b : Half, (pack a b).extractLsb' 16 16 = a ∧ (pack a b).extractLsb' 0 16 = b ∧
    digestByte (pack a b) 0 = a.extractLsb' 8 8 ∧ digestByte (pack a b) 1 = a.extractLsb' 0 8 ∧
    digestByte (pack a b) 2 = b.extractLsb' 8 8 ∧ digestByte (pack a b) 3 = b.extractLsb' 0 8) ∧
  (∀ (d : Word) (k : Fin 4), digestByte d k = d.extractLsb' (24 - 8 * k.val) 8) ∧
  (∀ d : Word, d.toNat = (digestByte d 0).toNat * 2 ^ 24 + (digestByte d 1).toNat * 2 ^ 16 +
    (digestByte d 2).toNat * 2 ^ 8 + (digestByte d 3).toNat) ∧
  pack 0x0083#16 0x00C4#16 = 0x008300C4#32

/-! ### Encoding (30_encoding) -/

/-- R65, R62, R63, R68: what every word selects, by the matches and masks of the opcode map. -/
def Obligations.OpcodeMapSelectsCommands : Prop :=
  ∀ w : CmdWord,
    (w &&& 0xFF00000000#40 = 0x0000000000#40 → decode w = .command .nop) ∧
    (w &&& 0xFF00000000#40 = 0x0100000000#40 → decode w = .command (.start (w.extractLsb' 0 32))) ∧
    (w &&& 0xFF00000000#40 = 0x0200000000#40 → decode w = .command (.feed (w.extractLsb' 0 8))) ∧
    (w &&& 0xFF00000000#40 = 0x0300000000#40 → decode w = .command .readDigest) ∧
    (w &&& 0xFF00000000#40 = 0x0400000000#40 → decode w = .command .readStatus) ∧
    (w &&& 0xFF00000000#40 = 0x0500000000#40 → decode w = .command .readRemaining) ∧
    (w &&& 0xFF00000000#40 = 0x0600000000#40 → decode w = .command .clear) ∧
    (7 ≤ (w.extractLsb' 32 8).toNat → decode w = .illegal (w.extractLsb' 32 8))

/-- R70: decoding is total, and a word selects exactly one row of the map or the illegal case. -/
def Obligations.EveryWordSelectsExactlyOne : Prop :=
  ∀ w : CmdWord,
    (∃ i r, decode w = .command i ∧ opcodeTable.filter (fun r => rowSelects r w) = [r] ∧ r.mnemonic = mnemonicOf i ∧
      (w.extractLsb' 32 8).toNat < 7) ∨
    (∃ op, decode w = .illegal op ∧ opcodeTable.filter (fun r => rowSelects r w) = [] ∧ 7 ≤ (w.extractLsb' 32 8).toNat)

/-- Decode and encode agree: every command's word decodes to it, and a word decodes to a command exactly when its used bits are that
command's word. -/
def Obligations.DecodeAndEncodeAgree : Prop :=
  (∀ i : Instr, decode (encode i) = .command i) ∧
  (∀ (w : CmdWord) (i : Instr), decode w = .command i ↔ w &&& usedBits i = encode i)

/-- R64: the ignored operand bits change neither the command, nor any state, nor any response. -/
def Obligations.IgnoredBitsHaveNoEffect : Prop :=
  ∀ (w w' : CmdWord), w.extractLsb' 32 8 = w'.extractLsb' 32 8 →
    w.extractLsb' 32 8 ≠ 0x01#8 →
    (w.extractLsb' 32 8 = 0x02#8 → w.extractLsb' 0 8 = w'.extractLsb' 0 8) →
    decode w = decode w' ∧ ∀ s : State, acceptWord w s = acceptWord w' s

/-- Words of 95_test_vectors written out in full decode to the commands they stand for. -/
def Obligations.WrittenOutWordsDecode : Prop :=
  decode 0x0000000000#40 = .command .nop ∧ decode 0x0012345678#40 = .command .nop ∧
  decode 0x0100000102#40 = .command (.start 258#32) ∧ decode 0x02FFFFFF42#40 = .command (.feed 0x42#8) ∧
  decode 0x0300000000#40 = .command .readDigest ∧ decode 0x0400000000#40 = .command .readStatus ∧
  decode 0x05FFFFFFFF#40 = .command .readRemaining ∧ decode 0x0600000000#40 = .command .clear ∧
  decode 0x0700000000#40 = .illegal 0x07#8 ∧ decode 0xFFFFFFFFFF#40 = .illegal 0xFF#8

/-- R72 and R73: what well-formed lines of assembler encode, and what their words decode to. -/
def Obligations.AssemblerLinesEncode : Prop :=
  (∀ n : Nat, (AsmLine.start n).wellFormed = true →
    asmWords (.start n) = [0x01#8 ++ BitVec.ofNat 32 n] ∧ ∃ len : Word, len.toNat = n ∧
      (asmWords (.start n)).map decode = [.command (.start len)]) ∧
  (∀ b : Nat, (AsmLine.feed b).wellFormed = true →
    asmWords (.feed b) = [0x02#8 ++ BitVec.ofNat 32 b] ∧ ∃ c : Byte, c.toNat = b ∧
      (asmWords (.feed b)).map decode = [.command (.feed c)]) ∧
  (asmWords .nop = [0x0000000000#40] ∧ asmWords .readDigest = [0x0300000000#40] ∧ asmWords .readStatus = [0x0400000000#40] ∧
    asmWords .readRemaining = [0x0500000000#40] ∧ asmWords .clear = [0x0600000000#40]) ∧
  (∀ w : Nat, (AsmLine.rawWord w).wellFormed = true → (asmWords (.rawWord w)).map BitVec.toNat = [w]) ∧
  (∀ bs : List Nat, asmWords (.feeds bs) = bs.flatMap fun b => asmWords (.feed b)) ∧
  (∀ bs : List Nat, asmWords (.checksum bs) =
    asmWords (.start bs.length) ++ asmWords (.feeds bs) ++ asmWords .readDigest)

/-! ### Session commands (41_session) -/

/-- R90: NOP. -/
def Obligations.NopResponds : Prop :=
  (∀ w : CmdWord, w &&& 0xFF00000000#40 = 0x0000000000#40 → decode w = .command .nop) ∧
  (∀ s : State, s.phase ≠ .reserved →
    exec .nop s = .next { s with rspq := s.rspq ++ [⟨.ok, 0x00000000#32⟩] })

/-- R91: START with an accepted length, with its corner cases and its worked example. -/
def Obligations.StartBeginsComputation : Prop :=
  (∀ w : CmdWord, w &&& 0xFF00000000#40 = 0x0100000000#40 → decode w = .command (.start (w.extractLsb' 0 32))) ∧
  (∀ (s : State) (len : Word), s.phase ≠ .reserved → len < 0x80000000#32 →
    exec (.start len) s = .next
      { s with
        sumA := 0x0000#16
        sumB := 0x0000#16
        rem := len
        phase := if len = 0#32 then .done else .run
        err := .ok
        rspq := s.rspq ++ [⟨.ok, if len = 0#32 then 0x00000002#32 else 0x00000001#32⟩] }) ∧
  (∀ (s : State) (len : Word), s.phase ≠ .reserved → 0x80000000#32 ≤ len →
    exec (.start len) s = .next (s.raiseError .tooLarge)) ∧
  (0x7FFFFFFF#32 < 0x80000000#32 ∧ (0x7FFFFFFF#32).extractLsb' 0 16 = 0xFFFF#16) ∧
  exec (.start 2#32) State.reset = .next
    { State.reset with rem := 2#32, phase := .run, rspq := [⟨.ok, 0x00000001#32⟩] }

/-- R92: START with a length that is too large writes ERR only. -/
def Obligations.StartRefusesTooLarge : Prop :=
  (∀ (s : State) (len : Word), s.phase ≠ .reserved → 0x80000000#32 ≤ len →
    exec (.start len) s = .next
      { s with
        err := .tooLarge
        rspq := s.rspq ++ [⟨.tooLarge, (Code.tooLarge.bits ++ s.phase.bits).setWidth 32⟩] }) ∧
  exec (.start 0x80000000#32) State.reset = .next
    { State.reset with err := .tooLarge, rspq := [⟨.tooLarge, 0x0000000C#32⟩] }

/-- R93: CLEAR sets every register to its reset value and keeps RSPQ. -/
def Obligations.ClearReturnsToIdle : Prop :=
  (∀ w : CmdWord, w &&& 0xFF00000000#40 = 0x0600000000#40 → decode w = .command .clear) ∧
  (∀ s : State, s.phase ≠ .reserved →
    exec .clear s = .next
      { s with
        sumA := 0x0000#16
        sumB := 0x0000#16
        rem := 0x00000000#32
        phase := .idle
        err := .ok
        rspq := s.rspq ++ [⟨.ok, 0x00000000#32⟩] }) ∧
  (∀ s t : State, exec .clear s = .next t → SameRegs t State.reset)

/-! ### FEED (42_accumulate) -/

/-- R100: FEED in RUN, with its corner cases and its worked example. -/
def Obligations.FeedAccumulates : Prop :=
  (∀ w : CmdWord, w &&& 0xFF00000000#40 = 0x0200000000#40 → decode w = .command (.feed (w.extractLsb' 0 8))) ∧
  (∀ (s : State) (c : Byte), s.phase = .run →
    exec (.feed c) s = .next
      { s with
        sumA := add16 s.sumA (c.setWidth 16)
        sumB := add16 s.sumB (wmul (s.rem.extractLsb' 0 16) c)
        rem := dec32 s.rem
        phase := if s.rem = 1#32 then .done else .run
        rspq := s.rspq ++ [⟨.ok, (s.err.bits ++ (if s.rem = 1#32 then Phase.done else Phase.run).bits).setWidth 32⟩] }) ∧
  (∀ (s : State) (c : Byte), s.phase = .idle ∨ s.phase = .done →
    exec (.feed c) s = .next (s.raiseError .protocol)) ∧
  (∀ (s t : State), s.phase = .run → exec (.feed 0x00#8) s = .next t →
    t.sumA = s.sumA ∧ t.sumB = s.sumB ∧ t.rem = dec32 s.rem) ∧
  (∀ (s t : State), s.phase = .run → s.sumA = 0xFF01#16 → exec (.feed 0xFF#8) s = .next t → t.sumA = 0x0000#16) ∧
  (∀ (s t : State) (c : Byte), s.phase = .run → 65536 ∣ s.rem.toNat → exec (.feed c) s = .next t → t.sumB = s.sumB) ∧
  exec (.feed 0x41#8) { State.reset with rem := 2#32, phase := .run } = .next
    { State.reset with
      sumA := 0x0041#16, sumB := 0x0082#16, rem := 1#32, phase := .run, rspq := [⟨.ok, 0x00000001#32⟩] }

/-- R101: FEED in IDLE or DONE writes ERR only and discards the byte. -/
def Obligations.FeedOutsideRunRaisesProtocol : Prop :=
  (∀ (s : State) (c : Byte), s.phase = .idle ∨ s.phase = .done →
    exec (.feed c) s = .next
      { s with
        err := .protocol
        rspq := s.rspq ++ [⟨.protocol, (Code.protocol.bits ++ s.phase.bits).setWidth 32⟩] }) ∧
  exec (.feed 0x41#8) State.reset = .next
    { State.reset with err := .protocol, rspq := [⟨.protocol, 0x00000008#32⟩] }

/-- R103: every byte value is valid input in RUN and none changes the control flow. -/
def Obligations.EveryByteIsValidInRun : Prop :=
  ∀ (s : State) (c c' : Byte), s.phase = .run →
    ∃ t t' : State, exec (.feed c) s = .next t ∧ exec (.feed c') s = .next t' ∧
      t.rem = t'.rem ∧ t.phase = t'.phase ∧ t.err = s.err ∧ t'.err = s.err ∧ t.rspq = t'.rspq ∧
      ∃ d : Word, t.rspq = s.rspq ++ [⟨.ok, d⟩]

/-! ### Readouts (43_readout) -/

/-- R110: READ_DIGEST returns the digest word as bits, in every phase, and changes nothing else. -/
def Obligations.ReadDigestReturnsSums : Prop :=
  (∀ w : CmdWord, w &&& 0xFF00000000#40 = 0x0300000000#40 → decode w = .command .readDigest) ∧
  (∀ s : State, s.phase ≠ .reserved →
    exec .readDigest s = .next { s with rspq := s.rspq ++ [⟨.ok, s.sumA ++ s.sumB⟩] }) ∧
  (∀ s : State, s.Consistent → s.phase = .idle →
    exec .readDigest s = .next { s with rspq := s.rspq ++ [⟨.ok, 0x00000000#32⟩] }) ∧
  (∀ (s : State) (data : List Byte), s.phase = .done → s.sumA ++ s.sumB = compute data →
    exec .readDigest s = .next { s with rspq := s.rspq ++ [⟨.ok, compute data⟩] }) ∧
  (∀ s t : State, exec .readDigest s = .next t → ∃ d : Word, t.rspq = s.rspq ++ [⟨.ok, d⟩] ∧
    d.extractLsb' 24 8 = s.sumA.extractLsb' 8 8 ∧ d.extractLsb' 16 8 = s.sumA.extractLsb' 0 8 ∧
    d.extractLsb' 8 8 = s.sumB.extractLsb' 8 8 ∧ d.extractLsb' 0 8 = s.sumB.extractLsb' 0 8)

/-- R111: READ_STATUS returns STATUS with code OK and does not clear ERR. -/
def Obligations.ReadStatusReturnsStatus : Prop :=
  (∀ w : CmdWord, w &&& 0xFF00000000#40 = 0x0400000000#40 → decode w = .command .readStatus) ∧
  (∀ s : State, s.phase ≠ .reserved →
    exec .readStatus s = .next { s with rspq := s.rspq ++ [⟨.ok, (s.err.bits ++ s.phase.bits).setWidth 32⟩] }) ∧
  (∀ s t : State, exec .readStatus s = .next t → ∃ d : Word, t.rspq = s.rspq ++ [⟨.ok, d⟩] ∧
    d.extractLsb' 4 28 = 0#28 ∧ d.extractLsb' 0 2 ≠ 0b11#2 ∧ d.extractLsb' 2 2 = s.err.bits)

/-- R112: READ_REMAINING returns REM; in a reachable state bit 31 is 0, and outside RUN the data is 0. -/
def Obligations.ReadRemainingReturnsRem : Prop :=
  (∀ w : CmdWord, w &&& 0xFF00000000#40 = 0x0500000000#40 → decode w = .command .readRemaining) ∧
  (∀ s : State, s.phase ≠ .reserved → exec .readRemaining s = .next { s with rspq := s.rspq ++ [⟨.ok, s.rem⟩] }) ∧
  (∀ s t : State, s.Consistent → exec .readRemaining s = .next t → ∃ d : Word, t.rspq = s.rspq ++ [⟨.ok, d⟩] ∧
    d.getLsbD 31 = false ∧ (s.phase = .idle ∨ s.phase = .done → d = 0#32) ∧
    (s.phase = .run → 1#32 ≤ d ∧ d ≤ 0x7FFFFFFF#32))

/-! ### Errors (60_exceptions) -/

/-- R122 and R68: accepting an illegal word writes ERR only. -/
def Obligations.IllegalWordRaisesIllegal : Prop :=
  (∀ (w : CmdWord) (s : State), 7 ≤ (w.extractLsb' 32 8).toNat → s.phase ≠ .reserved →
    acceptWord w s = .next
      { s with
        err := .illegal
        rspq := s.rspq ++ [⟨.illegal, (Code.illegal.bits ++ s.phase.bits).setWidth 32⟩] }) ∧
  acceptWord 0x0700000000#40 State.reset = .next
    { State.reset with err := .illegal, rspq := [⟨.illegal, 0x00000004#32⟩] }

/-- R121: a command whose response code is not OK has no effect but this one. -/
def Obligations.ErrorsArePrecise : Prop :=
  ∀ (w : CmdWord) (s t : State) (r : Response), acceptWord w s = .next t → t.rspq = s.rspq ++ [r] → r.code ≠ .ok →
    t = { s with
          err := r.code
          rspq := s.rspq ++ [⟨r.code, (r.code.bits ++ s.phase.bits).setWidth 32⟩] }

/-- R123 and R124: the complete list of errors, by their causes; every one carries STATUS after the write. -/
def Obligations.ErrorCausesAreComplete : Prop :=
  ∀ (w : CmdWord) (s : State), s.phase ≠ .reserved →
    ∃ (t : State) (r : Response), acceptWord w s = .next t ∧ t.rspq = s.rspq ++ [r] ∧
      (r.code = .illegal ↔ 7 ≤ (w.extractLsb' 32 8).toNat) ∧
      (r.code = .protocol ↔ w.extractLsb' 32 8 = 0x02#8 ∧ (s.phase = .idle ∨ s.phase = .done)) ∧
      (r.code = .tooLarge ↔ w.extractLsb' 32 8 = 0x01#8 ∧ 0x80000000#32 ≤ w.extractLsb' 0 32) ∧
      (r.code ≠ .ok → t.err = r.code ∧ r.data = t.status)

/-- R27 and R128: ERR takes the code of an error, NONE at a successful START, at CLEAR and at reset, and is left alone by all else. -/
def Obligations.ErrIsWrittenOnlyAsListed : Prop :=
  (∀ (w : CmdWord) (s t : State), acceptWord w s = .next t → ∃ r : Response, t.rspq = s.rspq ++ [r] ∧
    (r.code ≠ .ok → t.err = r.code) ∧
    (r.code = .ok → (∃ len, decode w = .command (.start len)) ∨ decode w = .command .clear → t.err = .ok) ∧
    (r.code = .ok → ¬((∃ len, decode w = .command (.start len)) ∨ decode w = .command .clear) → t.err = s.err)) ∧
  (∀ (s t : State) (e : PortEdge), e.rst = true → clockEdge e s = .next t → t.err = .ok) ∧
  Code.ok.bits = 0b00#2 ∧ Code.illegal.bits = 0b01#2 ∧ Code.protocol.bits = 0b10#2 ∧ Code.tooLarge.bits = 0b11#2

/-- R94: the transitions of PHASE. -/
def Obligations.PhaseTransitionsAreTheTable : Prop :=
  (∀ (w : CmdWord) (s t : State), acceptWord w s = .next t →
    (∀ len, decode w = .command (.start len) → len = 0#32 → t.phase = .done) ∧
    (∀ len, decode w = .command (.start len) → 1#32 ≤ len → len ≤ 0x7FFFFFFF#32 → t.phase = .run) ∧
    (∀ len, decode w = .command (.start len) → 0x80000000#32 ≤ len → t.phase = s.phase) ∧
    (decode w = .command .clear → t.phase = .idle) ∧
    (∀ c, decode w = .command (.feed c) → s.phase = .run → s.rem = 1#32 → t.phase = .done) ∧
    (∀ c, decode w = .command (.feed c) → s.phase = .run → 2#32 ≤ s.rem → t.phase = .run) ∧
    (∀ c, decode w = .command (.feed c) → s.phase = .idle ∨ s.phase = .done → t.phase = s.phase) ∧
    (readsOnly w = true → t.phase = s.phase)) ∧
  (∀ (s t : State) (e : PortEdge), e.rst = true → clockEdge e s = .next t → t.phase = .idle)

/-- R66: every accepted word appends exactly one response, in acceptance order. -/
def Obligations.EveryWordGivesOneResponse : Prop :=
  ∀ (ws : List CmdWord) (s t : State), acceptAll ws s = .next t →
    ∃ rs : List Response, rs.length = ws.length ∧ t.rspq = s.rspq ++ rs ∧
      ∀ (k : Nat) (u : State), k ≤ ws.length → acceptAll (ws.take k) s = .next u → u.rspq = s.rspq ++ rs.take k

/-- R136: from a legal phase every word has its step, and the phase stays legal. -/
def Obligations.EveryWordHasItsStep : Prop :=
  ∀ (ws : List CmdWord) (s : State), s.phase ≠ .reserved →
    ∃ t : State, acceptAll ws s = .next t ∧ t.phase ≠ .reserved

/-! ### Frames -/

/-- R49: NOP and the read commands change only RSPQ, and repeating one gives the same response again. -/
def Obligations.ReadsChangeOnlyTheQueue : Prop :=
  ∀ i : Instr, i = .nop ∨ i = .readDigest ∨ i = .readStatus ∨ i = .readRemaining →
    ∀ s t : State, exec i s = .next t → ∃ r : Response, t = { s with rspq := s.rspq ++ [r] } ∧
      exec i t = .next { s with rspq := s.rspq ++ [r] ++ [r] }

/-- The frame of FEED: the ports and the host side never change, RSPQ keeps its front, an accepted FEED keeps ERR, a refused one keeps
every register but ERR. -/
def Obligations.FeedFrame : Prop :=
  ∀ (s t : State) (c : Byte), exec (.feed c) s = .next t →
    SamePorts s t ∧ (∃ r : Response, t.rspq = s.rspq ++ [r]) ∧
    (s.phase = .run → t.err = s.err) ∧
    (s.phase ≠ .run → t.sumA = s.sumA ∧ t.sumB = s.sumB ∧ t.rem = s.rem ∧ t.phase = s.phase)

/-- The frame of START and CLEAR: the ports and the host side never change, RSPQ keeps its front, a refused START keeps every register but
ERR. -/
def Obligations.SessionFrame : Prop :=
  (∀ (s t : State) (len : Word), exec (.start len) s = .next t →
    SamePorts s t ∧ (∃ r : Response, t.rspq = s.rspq ++ [r]) ∧
    (0x80000000#32 ≤ len → t.sumA = s.sumA ∧ t.sumB = s.sumB ∧ t.rem = s.rem ∧ t.phase = s.phase)) ∧
  (∀ s t : State, exec .clear s = .next t → SamePorts s t ∧ ∃ r : Response, t.rspq = s.rspq ++ [r])

/-- R21: SUMA, SUMB and REM are written only by START, FEED, CLEAR and reset. That a step is one listed edge is the model's choice (log 1,
DESIGN CHOICE). -/
def Obligations.SumWritersAreListed : Prop :=
  ∀ (s t : State), step s = .next t → (t.sumA ≠ s.sumA ∨ t.sumB ≠ s.sumB ∨ t.rem ≠ s.rem) →
    ∃ (e : PortEdge) (rest : List PortEdge), s.edges = e :: rest ∧
      (e.rst = true ∨ e.accepts = true ∧
        ((∃ len, decode e.cmdData = .command (.start len)) ∨ (∃ c, decode e.cmdData = .command (.feed c)) ∨
          decode e.cmdData = .command .clear))

/-! ### The whole machine -/

/-- R26 and R25: every step keeps what holds in every reachable state; the clauses on the delays of RSP_LATENCY are the model's own
(log 2, DESIGN CHOICE). -/
def Obligations.StepKeepsConsistent : Prop :=
  ∀ s t : State, s.Consistent → step s = .next t → t.Consistent

/-- The reset state meets the invariant, and the premise `clean_entry` of R149. -/
def Obligations.ResetStateIsConsistent : Prop :=
  State.reset.Consistent ∧ State.reset.CleanEntry

/-- The values R140 gives for reset; the ports' and host side's own fields are the model's choice (log 8). -/
def Obligations.ResetStateValues : Prop :=
  State.reset.sumA = 0x0000#16 ∧ State.reset.sumB = 0x0000#16 ∧ State.reset.rem = 0x00000000#32 ∧
  State.reset.phase = .idle ∧ State.reset.err = .ok ∧ State.reset.status = 0x00000000#32 ∧ State.reset.rspq = [] ∧
  State.reset.digestO = 0x00000000#32 ∧ State.reset.phaseO = 0b00#2 ∧
  State.reset.rspDelays = [] ∧ State.reset.cmdHeld = none ∧ State.reset.edges = [] ∧ State.reset.taken = []

/-- R140, R141, R125: a reset edge leaves the reset values, empties RSPQ and accepts no command; a second reset edge changes nothing more.
Three parts of it are the model's: that a reset edge answers at PHASE = 0b11 too, which U2's words alone would refuse (log 5, DEDUCED from
R140 and R142); that it answers whatever the host offers, a word it held and now withdraws included (log 4, DESIGN CHOICE); that a response
transferred at that very edge, and no other, reaches the host (log 10, DEDUCED). -/
def Obligations.ResetEdgeFromAnyState : Prop :=
  ∀ (s : State) (e : PortEdge) (rest : List PortEdge), s.edges = e :: rest → e.rst = true →
    ∃ t : State, step s = .next t ∧ SameRegs t State.reset ∧ t.rspq = [] ∧ t.status = 0x00000000#32 ∧
      t.digestO = 0x00000000#32 ∧ t.phaseO = 0b00#2 ∧ t.rspValid = false ∧ t.edges = rest ∧
      t.taken = s.taken ++ (if s.rspValid && e.rspReady then s.rspq.head?.toList else []) ∧
      (∀ (e' : PortEdge) (rest' : List PortEdge), rest = e' :: rest' → e'.rst = true →
        step t = .next { t with edges := rest' })

/-- R60: an edge that accepts a word runs the command it decodes to, or raises ILLEGAL; this is how the statements about `exec` reach a run.
That it runs on the state the response port leaves, where a transfer shares the edge, is the model's reading (log 10, DEDUCED), and so is
that this state has the delay of RSP_LATENCY set for the response to come (log 2, DESIGN CHOICE). The clause on `withFetchWord`, which stands
for the host's issuing of a command, is the model's choice (log 1, DESIGN CHOICE), and so is its reading of a number as a command word
(log 12, DEDUCED). -/
def Obligations.StepRunsAcceptedCommand : Prop :=
  (∀ (s : State) (e : PortEdge) (rest : List PortEdge), s.edges = e :: rest → e.rst = false → e.cmdValid = true →
    e.cmdReady = true → s.phase ≠ .reserved → (s.cmdHeld = none ∨ s.cmdHeld = some e.cmdData) →
    (∀ i : Instr, decode e.cmdData = .command i →
      step s = exec i ((s.setEdges rest).transfer e).beginAccept) ∧
    (∀ op : BitVec 8, decode e.cmdData = .illegal op →
      step s = .next (((s.setEdges rest).transfer e).beginAccept.raiseError .illegal))) ∧
  (∀ (s : State) (w : Nat) (i : Instr), s.phase ≠ .reserved → decodeTableWord 40 w = some i →
    step (s.withFetchWord 40 w) = exec i (s.transfer (offerEdge (BitVec.ofNat 40 w))).beginAccept)

/-- R60, R145: an edge without reset that accepts nothing changes no register; the offered word, if any, must be held. That a
response may be transferred at such an edge is R60's; that the held word is a field of the host's side is the model's choice (log 4, DESIGN
CHOICE). -/
def Obligations.StalledEdgeAcceptsNothing : Prop :=
  ∀ (s : State) (e : PortEdge) (rest : List PortEdge), s.edges = e :: rest → e.rst = false → e.accepts = false →
    s.phase ≠ .reserved → (s.cmdHeld = none ∨ e.cmdValid = true ∧ s.cmdHeld = some e.cmdData) →
    ∃ t : State, step s = .next t ∧ SameRegs s t ∧ t.edges = rest ∧
      t.cmdHeld = (if e.cmdValid then some e.cmdData else none) ∧
      t.taken ++ t.rspq = s.taken ++ s.rspq

/-- R60: at every edge the machine takes, a response leaves RSPQ for the host exactly when `rsp_valid` and `rsp_ready` are 1; it is the
front, and the word on `rsp_data`. Two parts of it are the model's reading (log 10, DEDUCED): that this holds at a reset edge too, whose
response joins `taken` (unsafe there), and that a transfer and an acceptance may share an edge, the transfer on RSPQ as it stood before. That
the host's record is `taken` is log 8 (DESIGN CHOICE). -/
def Obligations.ResponseTransfer : Prop :=
  ∀ (s t : State) (e : PortEdge) (rest : List PortEdge), s.edges = e :: rest → step s = .next t →
    (∀ (r : Response) (q : List Response), s.rspq = r :: q → s.rspValid = true → e.rspReady = true →
      (s.outputs e).rspData = some (r.code.bits ++ r.data) ∧ t.taken = s.taken ++ [r] ∧
      (e.rst = false → ∃ rs : List Response, t.rspq = q ++ rs ∧ rs.length = if e.accepts then 1 else 0)) ∧
    (s.rspValid = false ∨ e.rspReady = false → t.taken = s.taken ∧
      (e.rst = false → ∃ rs : List Response, t.rspq = s.rspq ++ rs ∧ rs.length = if e.accepts then 1 else 0))

/-- R60: an offered response stays offered, the same word, until its transfer or a reset; and no response is offered from an empty
RSPQ. That `rsp_valid` counts RSP_LATENCY's cycles in a delay for each response is the model's choice (log 2, DESIGN CHOICE). -/
def Obligations.OfferedResponseStaysStable : Prop :=
  (∀ (s t : State) (e e' : PortEdge) (rest : List PortEdge), s.edges = e :: rest → step s = .next t → e.rst = false →
    s.rspValid = true → e.rspReady = false →
    t.rspValid = true ∧ (t.outputs e').rspData = (s.outputs e).rspData) ∧
  (∀ s : State, s.rspq = [] → s.rspValid = false)

/-- R60, R151: what the host must not do has no move: an offered word that is changed or withdrawn before its acceptance.
That the duty is remembered in `cmdHeld` is the model's choice (log 4, DESIGN CHOICE). -/
def Obligations.CommandNotHeldIsRefused : Prop :=
  ∀ (s : State) (e : PortEdge) (rest : List PortEdge) (w : CmdWord), s.edges = e :: rest → e.rst = false →
    s.phase ≠ .reserved → s.cmdHeld = some w →
    (step s = .refused .commandNotHeld ↔ e.cmdValid = false ∨ e.cmdData ≠ w)

/-- U2: a state with PHASE = 0b11 is refused by every command, every illegal word, and every edge without reset. That
edges without reset are refused too, one that accepts nothing included, is read from U2 (log 5, DEDUCED). -/
def Obligations.ReservedPhaseIsRefused : Prop :=
  ∀ s : State, s.phase = .reserved →
    (∀ i : Instr, exec i s = .refused .reservedPhase) ∧
    (∀ w : CmdWord, acceptWord w s = .refused .reservedPhase) ∧
    (∀ (e : PortEdge) (rest : List PortEdge), s.edges = e :: rest → e.rst = false → step s = .refused .reservedPhase)

/-- R136, R151, U2: the machine stops nowhere else: a step answers a next state unless PHASE is reserved or the host breaks its duty, at an
edge without reset. Parts of it are the model's: that no reset edge stops, at a broken duty (log 4, DESIGN CHOICE) or at PHASE = 0b11 (log 5,
DEDUCED); that with no edge listed the step answers (log 1, DESIGN CHOICE), at PHASE = 0b11 too (log 5, DEDUCED); that an edge without reset
is what is refused at PHASE = 0b11 (log 5, DEDUCED). -/
def Obligations.StepStopsNowhereElse : Prop :=
  ∀ s : State, (∃ t : State, step s = .next t) ∨
    ∃ (e : PortEdge) (rest : List PortEdge), s.edges = e :: rest ∧ e.rst = false ∧
      (s.phase = .reserved ∧ step s = .refused .reservedPhase ∨
       s.phase ≠ .reserved ∧ step s = .refused .commandNotHeld ∧
         ∃ w : CmdWord, s.cmdHeld = some w ∧ (e.cmdValid = false ∨ e.cmdData ≠ w))

/-- R28: STATUS is `zext_32({ERR, PHASE})`; PHASE in [1:0], ERR in [3:2], zeros above, 0 at reset; with the encodings of PHASE in R26. -/
def Obligations.StatusLayout : Prop :=
  (∀ s : State, s.status = (s.err.bits ++ s.phase.bits).setWidth 32 ∧ s.status.extractLsb' 0 2 = s.phase.bits ∧
    s.status.extractLsb' 2 2 = s.err.bits ∧ s.status.extractLsb' 4 28 = 0#28) ∧
  State.reset.status = 0x00000000#32 ∧
  Phase.idle.bits = 0b00#2 ∧ Phase.run.bits = 0b01#2 ∧ Phase.done.bits = 0b10#2 ∧ Phase.reserved.bits = 0b11#2

/-- R67: a response word is `{code, data}`, with the codes of ERR; `rsp_data` carries the front of RSPQ in that form. -/
def Obligations.ResponseWordLayout : Prop :=
  (∀ r : Response, r.bits.extractLsb' 32 2 = r.code.bits ∧ r.bits.extractLsb' 0 32 = r.data) ∧
  Code.ok.bits = 0b00#2 ∧ Code.illegal.bits = 0b01#2 ∧ Code.protocol.bits = 0b10#2 ∧ Code.tooLarge.bits = 0b11#2 ∧
  (∀ (s : State) (e : PortEdge) (r : Response) (q : List Response), s.rspq = r :: q → s.rspValid = true →
    (s.outputs e).rspData = some r.bits)

/-- R32: `digest_o` and `phase_o` show the values after the most recently completed command. -/
def Obligations.OutputsAreViews : Prop :=
  ∀ (w : CmdWord) (s t : State) (e : PortEdge), acceptWord w s = .next t →
    (t.outputs e).digestO = t.sumA ++ t.sumB ∧ (t.outputs e).phaseO = t.phase.bits ∧
    (readsOnly w = true → (t.outputs e).digestO = (s.outputs e).digestO ∧ (t.outputs e).phaseO = (s.outputs e).phaseO)

/-! ### Computations (00_scope R13, R14; 41_session R95; 42_accumulate R102) -/

/-- R14: the closed forms of the reference function. -/
def Obligations.ReferenceClosedForms : Prop :=
  ∀ data : List Byte,
    ((compute data).extractLsb' 16 16).toNat = prefixSum data data.length % 65536 ∧
    ((compute data).extractLsb' 0 16).toNat = weightedSum data.length data data.length % 65536 ∧
    ((compute data).extractLsb' 0 16).toNat = prefixForm data data.length % 65536

/-- R102: the state after the FEEDs of `data`, the first bytes of a computation of length `len`, with words that write no sum in between;
its SUMB is not the prefix form. -/
def Obligations.MidComputationState : Prop :=
  (∀ (s : State) (len : Nat) (data : List Byte) (ws : List CmdWord), s.phase ≠ .reserved → len ≤ 0x7FFFFFFF →
    data.length ≤ len → sessionCommands ws = computationOf len data →
    ∃ t : State, acceptAll ws s = .next t ∧ t.rem.toNat = len - data.length ∧
      t.sumA.toNat = prefixSum data data.length % 65536 ∧
      t.sumB.toNat = weightedSum len data data.length % 65536 ∧
      t.phase = if data.length = len then .done else .run) ∧
  (∀ s : State, s.phase ≠ .reserved → ∃ t u : State,
    acceptAll [encode (.start 2#32), encode (.feed 0x41#8)] s = .next t ∧ t.sumB = 0x0082#16 ∧
    prefixForm [0x41#8] 1 = 0x0041 ∧
    acceptAll [encode (.start 2#32), encode (.feed 0x41#8), encode (.feed 0x42#8)] s = .next u ∧ u.sumB = 0x00C4#16 ∧
    prefixForm [0x41#8, 0x42#8] 2 = 0x00C4)

/-- R95, the correctness property of the engine: START n and n FEEDs, with words that write no sum in between, from any state with a legal
PHASE, leave the digest of the reference function; every FEED is answered OK (and every word, if none is illegal), and READ_DIGEST then
answers the digest. -/
def Obligations.ComputationYieldsReferenceDigest : Prop :=
  ∀ (s : State) (data : List Byte) (ws : List CmdWord), s.phase ≠ .reserved → data.length ≤ 0x7FFFFFFF →
    sessionCommands ws = computationOf data.length data →
    ∃ (t : State) (rs : List Response), acceptAll ws s = .next t ∧ t.phase = .done ∧ t.rem = 0#32 ∧
      t.sumA ++ t.sumB = compute data ∧ t.rspq = s.rspq ++ rs ∧ rs.length = ws.length ∧
      (∀ p : CmdWord × Response, p ∈ ws.zip rs → (∃ c, decode p.1 = .command (.feed c)) → p.2.code = .ok) ∧
      ((∀ w ∈ ws, (w.extractLsb' 32 8).toNat < 7) → s.noErrorResponse → t.noErrorResponse) ∧
      ∀ w : CmdWord, decode w = .command .readDigest →
        acceptWord w t = .next { t with rspq := t.rspq ++ [⟨.ok, compute data⟩] }

/-- R73, R147: the `n + 2` words of a well-formed CHECKSUM line, from any state with a legal PHASE, are answered by `n + 2` responses, the last
of which carries the digest of its bytes. -/
def Obligations.ChecksumLineAnswersDigest : Prop :=
  ∀ (s : State) (bs : List Nat), s.phase ≠ .reserved → (AsmLine.checksum bs).wellFormed = true →
    (asmWords (.checksum bs)).length = bs.length + 2 ∧
    ∃ (t : State) (rs : List Response), acceptAll (asmWords (.checksum bs)) s = .next t ∧
      t.rspq = s.rspq ++ rs ++ [⟨.ok, compute (bs.map (BitVec.ofNat 8))⟩] ∧ rs.length = bs.length + 1

/-- R31, conflict C2: an accepted START erases all history: two engines in any states with legal phases that accept it and then the same
words hold the same registers and answer the same responses. -/
def Obligations.StartErasesHistory : Prop :=
  ∀ (s s' : State) (w : CmdWord) (len : Word) (ws : List CmdWord), s.phase ≠ .reserved → s'.phase ≠ .reserved →
    decode w = .command (.start len) → len < 0x80000000#32 →
    ∃ (t t' : State) (rs : List Response), acceptAll (w :: ws) s = .next t ∧ acceptAll (w :: ws) s' = .next t' ∧
      SameRegs t t' ∧ t.rspq = s.rspq ++ rs ∧ t'.rspq = s'.rspq ++ rs

/-- R146, R101: FEEDs past the end of a computation are discarded: the digest stands, and each is answered PROTOCOL. -/
def Obligations.FeedsPastTheEndAreDiscarded : Prop :=
  ∀ (s : State) (data : List Byte), s.phase = .done → data ≠ [] →
    ∃ t : State, acceptAll (data.map fun c => encode (.feed c)) s = .next t ∧
      t = { s with
            err := .protocol
            rspq := s.rspq ++ List.replicate data.length ⟨.protocol, 0x0000000A#32⟩ }

/-- R147, R50, R30: the ports' timing does not matter. Over any edges without reset at which the machine runs on, for every CMD_READY_POLICY and
RSP_LATENCY and every rate at which the host takes responses, the registers are those of the accepted words in order, and the responses
taken and still queued are those of the accepted words in order. The edges and the host's record are the model's (log 1 and log 8, DESIGN
CHOICE), and so are the two parameters' forms (log 2, DESIGN CHOICE) and a transfer at an accepting edge (log 10, DEDUCED). -/
def Obligations.PortTimingDoesNotMatter : Prop :=
  ∀ (s t : State), (∀ e ∈ s.edges, e.rst = false) → Sys2Proof.core.run s.edges.length s = .next t →
    ∃ u : State, acceptAll (acceptedWords s.edges) s = .next u ∧ SameRegs t u ∧ t.edges = [] ∧
      t.taken ++ t.rspq = u.taken ++ u.rspq ∧ (t.hostEnded → t.observation = u.taken ++ u.rspq)

/-- R60, R147: a host that holds its word through any number of edges without reset at which `cmd_ready` is low has it accepted, once, at the
first edge at which `cmd_ready` is high. The edges are the model's choice (log 1), and so is the held word's field (log 4, DESIGN CHOICE). -/
def Obligations.HeldCommandIsAcceptedWhenReady : Prop :=
  ∀ (s : State) (w : CmdWord) (stalls : List PortEdge) (e : PortEdge), s.phase ≠ .reserved →
    (s.cmdHeld = none ∨ s.cmdHeld = some w) →
    (∀ x ∈ stalls, x.rst = false ∧ x.cmdValid = true ∧ x.cmdData = w ∧ x.cmdReady = false) →
    e.rst = false → e.cmdValid = true → e.cmdData = w → e.cmdReady = true → s.edges = stalls ++ [e] →
    ∃ t u : State, Sys2Proof.core.run (stalls.length + 1) s = .next t ∧ acceptWord w s = .next u ∧ SameRegs t u ∧
      t.cmdHeld = none ∧ t.taken ++ t.rspq = u.taken ++ u.rspq

/-! ### The OPEN parameters (00_scope R8, 93_implementation_defined U3 and U4) -/

/-- R8, U3: RSP_LATENCY is an integer of 1 or more, and it is the number of clock cycles from a command's acceptance to `rsp_valid` for its
response: from a state with no response queued, whatever else is accepted and whatever the host's `rsp_ready`, `rsp_valid` is low at every
edge before that cycle and high at that one. That it is one number for all commands, counted for each queued response, is the model's choice
(log 2, DESIGN CHOICE); so is the list of edges (log 1, DESIGN CHOICE). -/
def Obligations.ResponseIsOfferedAfterLatency : Prop :=
  1 ≤ Config.rspLatency ∧
  ∀ (s t : State) (e : PortEdge) (es later : List PortEdge), s.rspq = [] → s.rspDelays = [] → e.accepts = true →
    (∀ x ∈ es, x.rst = false) → es.length + 1 ≤ Config.rspLatency → s.edges = e :: (es ++ later) →
    Sys2Proof.core.run (es.length + 1) s = .next t →
    (t.rspValid = true ↔ es.length + 1 = Config.rspLatency)

/-- R147: "a host that holds `rsp_ready` eventually receives the response". It holds for every RSP_LATENCY with no fairness assumed: the front
of RSPQ is received after its pending delay `d` and one edge more, which in a consistent state is within RSP_LATENCY edges. The delays are
the model's choice (log 2, DESIGN CHOICE), and so are the edges and the host's record (log 1 and log 8, DESIGN CHOICE). -/
def Obligations.HeldReadyReceivesResponse : Prop :=
  ∀ (s t : State) (r : Response) (q : List Response) (d : Nat) (ds : List Nat) (held later : List PortEdge),
    s.rspq = r :: q → s.rspDelays = d :: ds → held.length = d + 1 → (∀ x ∈ held, x.rst = false ∧ x.rspReady = true) →
    s.edges = held ++ later → Sys2Proof.core.run (d + 1) s = .next t →
    t.taken = s.taken ++ [r] ∧ (s.Consistent → d + 1 ≤ Config.rspLatency)

/-- R147, R8, U4: "a host that holds `cmd_valid` is eventually served". Under weak fairness of CMD_READY_POLICY, from any state with a legal
PHASE in which the host holds no other word, a word offered until it is accepted is accepted at some edge, and the run up to that edge has
its effect, once. The model assumes no fairness in its steps: it is the premise `FairCommandPort` here (log 2, DESIGN CHOICE); the edges and
the held word are the model's (log 1 and log 4, DESIGN CHOICE). -/
def Obligations.FairHostIsServed : Prop :=
  ∀ (s : State) (w : CmdWord) (es : Nat → PortEdge), s.phase ≠ .reserved → (s.cmdHeld = none ∨ s.cmdHeld = some w) →
    OffersUntilAccepted w es → FairCommandPort es →
    ∃ (n : Nat) (t u : State), (es n).accepts = true ∧ (∀ k, k < n → (es k).accepts = false) ∧
      Sys2Proof.core.run (n + 1) (s.setEdges (firstEdges es (n + 1))) = .next t ∧ acceptWord w s = .next u ∧
      SameRegs t u ∧ t.cmdHeld = none ∧ t.edges = [] ∧ t.taken ++ t.rspq = u.taken ++ u.rspq
end

