-- ==== Sys2Proof/Laws/Decode.lean ====
section
/-!
SUPPORT. The fields of a command word, and one lemma per opcode of what the decoder answers (30_encoding rules R61 to R70).
-/

namespace Sys2Proof

@[simp] theorem opcodeOf_cmdWord (op : BitVec 8) (operand : Word) : opcodeOf (cmdWord op operand) = op := by
  ext i hi
  simp only [opcodeOf, cmdWord, BitVec.getElem_extractLsb', BitVec.getLsbD_append]
  simp [BitVec.getLsbD_eq_getElem hi]

@[simp] theorem operandOf_cmdWord (op : BitVec 8) (operand : Word) : operandOf (cmdWord op operand) = operand := by
  ext i hi
  simp only [operandOf, cmdWord, BitVec.getElem_extractLsb', BitVec.getLsbD_append]
  simp [hi]

@[simp] theorem operandByte_setWidth (c : Byte) : operandByte (c.setWidth 32) = c := by
  ext i hi
  simp only [operandByte, BitVec.getElem_extractLsb', BitVec.getLsbD_setWidth]
  simp [show i < 32 by omega, BitVec.getLsbD_eq_getElem hi]

/-- A word is its two fields. -/
theorem cmdWord_fields (w : CmdWord) : cmdWord (opcodeOf w) (operandOf w) = w := by
  apply BitVec.eq_of_toNat_eq
  simp only [cmdWord, opcodeOf, operandOf, BitVec.toNat_append, BitVec.extractLsb'_toNat]
  have := w.isLt
  rw [← Nat.shiftLeft_add_eq_or_of_lt (Nat.mod_lt _ (by decide)), Nat.shiftLeft_eq, Nat.shiftRight_eq_div_pow]
  simp only [Nat.shiftRight_zero]
  omega

/-- The mask of every row of the opcode map keeps the opcode alone (R65). -/
theorem masked_eq (w : CmdWord) : w &&& 0xFF00000000#40 = cmdWord (opcodeOf w) 0x00000000#32 := by
  have hm : (0xFF00000000#40 : CmdWord) = cmdWord 0xFF#8 0x00000000#32 := by decide
  rw [hm]
  apply BitVec.eq_of_getLsbD_eq
  intro i hi
  simp only [cmdWord, opcodeOf, BitVec.getLsbD_and, BitVec.getLsbD_append, BitVec.getLsbD_extractLsb']
  by_cases h : i < 32
  · simp [h]
  · have h8 : i - 32 < 8 := by omega
    have hF : (0xFF#8).getLsbD (i - 32) = true := by
      have : ∀ j : Fin 8, (0xFF#8).getLsbD j.val = true := by decide
      exact this ⟨i - 32, h8⟩
    have hadd : 32 + (i - 32) = i := by omega
    simp [h, h8, hF, hadd]

/-- A row's match says which opcode it names. -/
theorem masked_eq_iff (w : CmdWord) (op : BitVec 8) :
    w &&& 0xFF00000000#40 = cmdWord op 0x00000000#32 ↔ opcodeOf w = op := by
  rw [masked_eq]
  constructor
  · intro h
    simpa using congrArg opcodeOf h
  · intro h; rw [h]

/-- The rows a word selects depend on its opcode alone. -/
theorem rows_by_opcode (w : CmdWord) :
    opcodeTable.filter (fun r => rowSelects r w) =
      opcodeTable.filter (fun r => rowSelects r (cmdWord (opcodeOf w) 0x00000000#32)) := by
  refine List.filter_congr fun r hr => ?_
  have hm : ∀ r ∈ opcodeTable, r.maskBits = 0xFF00000000#40 := by decide
  simp only [rowSelects, hm r hr, masked_eq, opcodeOf_cmdWord]

theorem decode_nop {w : CmdWord} (h : opcodeOf w = 0x00#8) : decode w = .command .nop := by simp [decode, h]

theorem decode_start {w : CmdWord} (h : opcodeOf w = 0x01#8) : decode w = .command (.start (operandOf w)) := by
  simp [decode, h]

theorem decode_feed {w : CmdWord} (h : opcodeOf w = 0x02#8) :
    decode w = .command (.feed (operandByte (operandOf w))) := by
  simp [decode, h]

theorem decode_readDigest {w : CmdWord} (h : opcodeOf w = 0x03#8) : decode w = .command .readDigest := by
  simp [decode, h]

theorem decode_readStatus {w : CmdWord} (h : opcodeOf w = 0x04#8) : decode w = .command .readStatus := by
  simp [decode, h]

theorem decode_readRemaining {w : CmdWord} (h : opcodeOf w = 0x05#8) : decode w = .command .readRemaining := by
  simp [decode, h]

theorem decode_clear {w : CmdWord} (h : opcodeOf w = 0x06#8) : decode w = .command .clear := by simp [decode, h]

theorem decode_illegal {w : CmdWord} (h : 7 ≤ (opcodeOf w).toNat) : decode w = .illegal (opcodeOf w) := by
  unfold decode
  repeat' split
  all_goals first | rfl | (next hw => simp [hw] at h)

/-- What a word can decode to, with its opcode: the decoder inverted. -/
theorem decode_cases (w : CmdWord) :
    (opcodeOf w = 0x00#8 ∧ decode w = .command .nop) ∨
    (opcodeOf w = 0x01#8 ∧ decode w = .command (.start (operandOf w))) ∨
    (opcodeOf w = 0x02#8 ∧ decode w = .command (.feed (operandByte (operandOf w)))) ∨
    (opcodeOf w = 0x03#8 ∧ decode w = .command .readDigest) ∨
    (opcodeOf w = 0x04#8 ∧ decode w = .command .readStatus) ∨
    (opcodeOf w = 0x05#8 ∧ decode w = .command .readRemaining) ∨
    (opcodeOf w = 0x06#8 ∧ decode w = .command .clear) ∨
    (7 ≤ (opcodeOf w).toNat ∧ decode w = .illegal (opcodeOf w)) := by
  have hop : opcodeOf w = 0x00#8 ∨ opcodeOf w = 0x01#8 ∨ opcodeOf w = 0x02#8 ∨ opcodeOf w = 0x03#8 ∨ opcodeOf w = 0x04#8 ∨
      opcodeOf w = 0x05#8 ∨ opcodeOf w = 0x06#8 ∨ 7 ≤ (opcodeOf w).toNat := by
    simp only [← BitVec.toNat_inj]
    simp
    omega
  obtain h | h | h | h | h | h | h | h := hop
  · exact .inl ⟨h, decode_nop h⟩
  · exact .inr (.inl ⟨h, decode_start h⟩)
  · exact .inr (.inr (.inl ⟨h, decode_feed h⟩))
  · exact .inr (.inr (.inr (.inl ⟨h, decode_readDigest h⟩)))
  · exact .inr (.inr (.inr (.inr (.inl ⟨h, decode_readStatus h⟩))))
  · exact .inr (.inr (.inr (.inr (.inr (.inl ⟨h, decode_readRemaining h⟩)))))
  · exact .inr (.inr (.inr (.inr (.inr (.inr (.inl ⟨h, decode_clear h⟩))))))
  · exact .inr (.inr (.inr (.inr (.inr (.inr (.inr ⟨h, decode_illegal h⟩))))))

end Sys2Proof
end

