-- ==== Sys2Proof/Laws/Operands.lean ====
section
/-!
SUPPORT. What the operand values, the packing and the STATUS view are, said once.
-/

namespace Sys2Proof.Machine

/-- The refusal of a length, as the comparison of R92. -/
theorem lenTooLarge_iff (len : Word) : lenTooLarge len = true ↔ 0x80000000#32 ≤ len :=
  decide_eq_true_iff

/-- An accepted length is below the limit of R91. -/
theorem lenTooLarge_eq_false_iff (len : Word) : lenTooLarge len = false ↔ len < 0x80000000#32 := by
  rw [← Bool.not_eq_true, lenTooLarge_iff, BitVec.not_le]

/-- The weight is REM modulo 65536. -/
theorem weightOf_toNat (r : Word) : (weightOf r).toNat = r.toNat % 65536 := by
  simp [weightOf]

/-- A byte keeps its value as an addend. -/
@[simp] theorem byteAddend_toNat (c : Byte) : (byteAddend c).toNat = c.toNat := by
  have := c.isLt
  simp [byteAddend]
  omega

/-- The digest word as a number. -/
theorem pack_toNat (a b : Half) : (pack a b).toNat = a.toNat * 65536 + b.toNat := by
  show (a ++ b).toNat = _
  rw [BitVec.toNat_append, ← Nat.shiftLeft_add_eq_or_of_lt b.isLt, Nat.shiftLeft_eq]

/-- The fields of a STATUS word. -/
theorem statusWord_fields (e : Code) (p : Phase) :
    (statusWord e p).extractLsb' 0 2 = p.bits ∧ (statusWord e p).extractLsb' 2 2 = e.bits ∧
      (statusWord e p).extractLsb' 4 28 = 0#28 := by
  cases e <;> cases p <;> decide

end Sys2Proof.Machine
end

