-- ==== Sys2Proof/Laws/State.lean ====
section
/-!
SUPPORT. What each named update of State does to each field: one lemma a field, so that no later proof unfolds a record update.
-/

namespace Sys2Proof.Machine

@[simp] theorem State.setSums_sumA (s : State) (a b : Half) : (s.setSums a b).sumA = a := rfl
@[simp] theorem State.setSums_sumB (s : State) (a b : Half) : (s.setSums a b).sumB = b := rfl
@[simp] theorem State.setSums_rem (s : State) (a b : Half) : (s.setSums a b).rem = s.rem := rfl
@[simp] theorem State.setSums_phase (s : State) (a b : Half) : (s.setSums a b).phase = s.phase := rfl
@[simp] theorem State.setSums_err (s : State) (a b : Half) : (s.setSums a b).err = s.err := rfl
@[simp] theorem State.setSums_rspq (s : State) (a b : Half) : (s.setSums a b).rspq = s.rspq := rfl
@[simp] theorem State.setSums_rspDelays (s : State) (a b : Half) : (s.setSums a b).rspDelays = s.rspDelays := rfl
@[simp] theorem State.setSums_cmdHeld (s : State) (a b : Half) : (s.setSums a b).cmdHeld = s.cmdHeld := rfl
@[simp] theorem State.setSums_edges (s : State) (a b : Half) : (s.setSums a b).edges = s.edges := rfl
@[simp] theorem State.setSums_taken (s : State) (a b : Half) : (s.setSums a b).taken = s.taken := rfl

@[simp] theorem State.setRem_sumA (s : State) (r : Word) : (s.setRem r).sumA = s.sumA := rfl
@[simp] theorem State.setRem_sumB (s : State) (r : Word) : (s.setRem r).sumB = s.sumB := rfl
@[simp] theorem State.setRem_rem (s : State) (r : Word) : (s.setRem r).rem = r := rfl
@[simp] theorem State.setRem_phase (s : State) (r : Word) : (s.setRem r).phase = s.phase := rfl
@[simp] theorem State.setRem_err (s : State) (r : Word) : (s.setRem r).err = s.err := rfl
@[simp] theorem State.setRem_rspq (s : State) (r : Word) : (s.setRem r).rspq = s.rspq := rfl
@[simp] theorem State.setRem_rspDelays (s : State) (r : Word) : (s.setRem r).rspDelays = s.rspDelays := rfl
@[simp] theorem State.setRem_cmdHeld (s : State) (r : Word) : (s.setRem r).cmdHeld = s.cmdHeld := rfl
@[simp] theorem State.setRem_edges (s : State) (r : Word) : (s.setRem r).edges = s.edges := rfl
@[simp] theorem State.setRem_taken (s : State) (r : Word) : (s.setRem r).taken = s.taken := rfl

@[simp] theorem State.setPhase_sumA (s : State) (p : Phase) : (s.setPhase p).sumA = s.sumA := rfl
@[simp] theorem State.setPhase_sumB (s : State) (p : Phase) : (s.setPhase p).sumB = s.sumB := rfl
@[simp] theorem State.setPhase_rem (s : State) (p : Phase) : (s.setPhase p).rem = s.rem := rfl
@[simp] theorem State.setPhase_phase (s : State) (p : Phase) : (s.setPhase p).phase = p := rfl
@[simp] theorem State.setPhase_err (s : State) (p : Phase) : (s.setPhase p).err = s.err := rfl
@[simp] theorem State.setPhase_rspq (s : State) (p : Phase) : (s.setPhase p).rspq = s.rspq := rfl
@[simp] theorem State.setPhase_rspDelays (s : State) (p : Phase) : (s.setPhase p).rspDelays = s.rspDelays := rfl
@[simp] theorem State.setPhase_cmdHeld (s : State) (p : Phase) : (s.setPhase p).cmdHeld = s.cmdHeld := rfl
@[simp] theorem State.setPhase_edges (s : State) (p : Phase) : (s.setPhase p).edges = s.edges := rfl
@[simp] theorem State.setPhase_taken (s : State) (p : Phase) : (s.setPhase p).taken = s.taken := rfl

@[simp] theorem State.setErr_sumA (s : State) (e : Code) : (s.setErr e).sumA = s.sumA := rfl
@[simp] theorem State.setErr_sumB (s : State) (e : Code) : (s.setErr e).sumB = s.sumB := rfl
@[simp] theorem State.setErr_rem (s : State) (e : Code) : (s.setErr e).rem = s.rem := rfl
@[simp] theorem State.setErr_phase (s : State) (e : Code) : (s.setErr e).phase = s.phase := rfl
@[simp] theorem State.setErr_err (s : State) (e : Code) : (s.setErr e).err = e := rfl
@[simp] theorem State.setErr_rspq (s : State) (e : Code) : (s.setErr e).rspq = s.rspq := rfl
@[simp] theorem State.setErr_rspDelays (s : State) (e : Code) : (s.setErr e).rspDelays = s.rspDelays := rfl
@[simp] theorem State.setErr_cmdHeld (s : State) (e : Code) : (s.setErr e).cmdHeld = s.cmdHeld := rfl
@[simp] theorem State.setErr_edges (s : State) (e : Code) : (s.setErr e).edges = s.edges := rfl
@[simp] theorem State.setErr_taken (s : State) (e : Code) : (s.setErr e).taken = s.taken := rfl

@[simp] theorem State.respond_sumA (s : State) (code : Code) (data : Word) : (s.respond code data).sumA = s.sumA := rfl
@[simp] theorem State.respond_sumB (s : State) (code : Code) (data : Word) : (s.respond code data).sumB = s.sumB := rfl
@[simp] theorem State.respond_rem (s : State) (code : Code) (data : Word) : (s.respond code data).rem = s.rem := rfl
@[simp] theorem State.respond_phase (s : State) (code : Code) (data : Word) : (s.respond code data).phase = s.phase := rfl
@[simp] theorem State.respond_err (s : State) (code : Code) (data : Word) : (s.respond code data).err = s.err := rfl
@[simp] theorem State.respond_rspq (s : State) (code : Code) (data : Word) : (s.respond code data).rspq = s.rspq ++ [⟨code, data⟩] := rfl
@[simp] theorem State.respond_rspDelays (s : State) (code : Code) (data : Word) : (s.respond code data).rspDelays = s.rspDelays := rfl
@[simp] theorem State.respond_cmdHeld (s : State) (code : Code) (data : Word) : (s.respond code data).cmdHeld = s.cmdHeld := rfl
@[simp] theorem State.respond_edges (s : State) (code : Code) (data : Word) : (s.respond code data).edges = s.edges := rfl
@[simp] theorem State.respond_taken (s : State) (code : Code) (data : Word) : (s.respond code data).taken = s.taken := rfl

@[simp] theorem State.respondStatus_sumA (s : State) (code : Code) : (s.respondStatus code).sumA = s.sumA := rfl
@[simp] theorem State.respondStatus_sumB (s : State) (code : Code) : (s.respondStatus code).sumB = s.sumB := rfl
@[simp] theorem State.respondStatus_rem (s : State) (code : Code) : (s.respondStatus code).rem = s.rem := rfl
@[simp] theorem State.respondStatus_phase (s : State) (code : Code) : (s.respondStatus code).phase = s.phase := rfl
@[simp] theorem State.respondStatus_err (s : State) (code : Code) : (s.respondStatus code).err = s.err := rfl
@[simp] theorem State.respondStatus_rspq (s : State) (code : Code) : (s.respondStatus code).rspq = s.rspq ++ [⟨code, s.status⟩] := rfl
@[simp] theorem State.respondStatus_rspDelays (s : State) (code : Code) : (s.respondStatus code).rspDelays = s.rspDelays := rfl
@[simp] theorem State.respondStatus_cmdHeld (s : State) (code : Code) : (s.respondStatus code).cmdHeld = s.cmdHeld := rfl
@[simp] theorem State.respondStatus_edges (s : State) (code : Code) : (s.respondStatus code).edges = s.edges := rfl
@[simp] theorem State.respondStatus_taken (s : State) (code : Code) : (s.respondStatus code).taken = s.taken := rfl

@[simp] theorem State.raiseError_sumA (s : State) (code : Code) : (s.raiseError code).sumA = s.sumA := rfl
@[simp] theorem State.raiseError_sumB (s : State) (code : Code) : (s.raiseError code).sumB = s.sumB := rfl
@[simp] theorem State.raiseError_rem (s : State) (code : Code) : (s.raiseError code).rem = s.rem := rfl
@[simp] theorem State.raiseError_phase (s : State) (code : Code) : (s.raiseError code).phase = s.phase := rfl
@[simp] theorem State.raiseError_err (s : State) (code : Code) : (s.raiseError code).err = code := rfl
@[simp] theorem State.raiseError_rspq (s : State) (code : Code) : (s.raiseError code).rspq = s.rspq ++ [⟨code, statusWord code s.phase⟩] := rfl
@[simp] theorem State.raiseError_rspDelays (s : State) (code : Code) : (s.raiseError code).rspDelays = s.rspDelays := rfl
@[simp] theorem State.raiseError_cmdHeld (s : State) (code : Code) : (s.raiseError code).cmdHeld = s.cmdHeld := rfl
@[simp] theorem State.raiseError_edges (s : State) (code : Code) : (s.raiseError code).edges = s.edges := rfl
@[simp] theorem State.raiseError_taken (s : State) (code : Code) : (s.raiseError code).taken = s.taken := rfl

@[simp] theorem State.clearRegs_sumA (s : State) : (s.clearRegs).sumA = 0x0000#16 := rfl
@[simp] theorem State.clearRegs_sumB (s : State) : (s.clearRegs).sumB = 0x0000#16 := rfl
@[simp] theorem State.clearRegs_rem (s : State) : (s.clearRegs).rem = 0x00000000#32 := rfl
@[simp] theorem State.clearRegs_phase (s : State) : (s.clearRegs).phase = .idle := rfl
@[simp] theorem State.clearRegs_err (s : State) : (s.clearRegs).err = .ok := rfl
@[simp] theorem State.clearRegs_rspq (s : State) : (s.clearRegs).rspq = s.rspq := rfl
@[simp] theorem State.clearRegs_rspDelays (s : State) : (s.clearRegs).rspDelays = s.rspDelays := rfl
@[simp] theorem State.clearRegs_cmdHeld (s : State) : (s.clearRegs).cmdHeld = s.cmdHeld := rfl
@[simp] theorem State.clearRegs_edges (s : State) : (s.clearRegs).edges = s.edges := rfl
@[simp] theorem State.clearRegs_taken (s : State) : (s.clearRegs).taken = s.taken := rfl

@[simp] theorem State.resetEngine_sumA (s : State) : (s.resetEngine).sumA = 0x0000#16 := rfl
@[simp] theorem State.resetEngine_sumB (s : State) : (s.resetEngine).sumB = 0x0000#16 := rfl
@[simp] theorem State.resetEngine_rem (s : State) : (s.resetEngine).rem = 0x00000000#32 := rfl
@[simp] theorem State.resetEngine_phase (s : State) : (s.resetEngine).phase = .idle := rfl
@[simp] theorem State.resetEngine_err (s : State) : (s.resetEngine).err = .ok := rfl
@[simp] theorem State.resetEngine_rspq (s : State) : (s.resetEngine).rspq = [] := rfl
@[simp] theorem State.resetEngine_rspDelays (s : State) : (s.resetEngine).rspDelays = [] := rfl
@[simp] theorem State.resetEngine_cmdHeld (s : State) : (s.resetEngine).cmdHeld = none := rfl
@[simp] theorem State.resetEngine_edges (s : State) : (s.resetEngine).edges = s.edges := rfl
@[simp] theorem State.resetEngine_taken (s : State) : (s.resetEngine).taken = s.taken := rfl

@[simp] theorem State.startWrites_sumA (s : State) (len : Word) : (s.startWrites len).sumA = 0x0000#16 := rfl
@[simp] theorem State.startWrites_sumB (s : State) (len : Word) : (s.startWrites len).sumB = 0x0000#16 := rfl
@[simp] theorem State.startWrites_rem (s : State) (len : Word) : (s.startWrites len).rem = len := rfl
@[simp] theorem State.startWrites_phase (s : State) (len : Word) : (s.startWrites len).phase = phaseAfterStart len := rfl
@[simp] theorem State.startWrites_err (s : State) (len : Word) : (s.startWrites len).err = .ok := rfl
@[simp] theorem State.startWrites_rspq (s : State) (len : Word) : (s.startWrites len).rspq = s.rspq := rfl
@[simp] theorem State.startWrites_rspDelays (s : State) (len : Word) : (s.startWrites len).rspDelays = s.rspDelays := rfl
@[simp] theorem State.startWrites_cmdHeld (s : State) (len : Word) : (s.startWrites len).cmdHeld = s.cmdHeld := rfl
@[simp] theorem State.startWrites_edges (s : State) (len : Word) : (s.startWrites len).edges = s.edges := rfl
@[simp] theorem State.startWrites_taken (s : State) (len : Word) : (s.startWrites len).taken = s.taken := rfl

@[simp] theorem State.feedWrites_sumA (s : State) (c : Byte) : (s.feedWrites c).sumA = add16 s.sumA (byteAddend c) := rfl
@[simp] theorem State.feedWrites_sumB (s : State) (c : Byte) : (s.feedWrites c).sumB = add16 s.sumB (wmul (weightOf s.rem) c) := rfl
@[simp] theorem State.feedWrites_rem (s : State) (c : Byte) : (s.feedWrites c).rem = dec32 s.rem := rfl
@[simp] theorem State.feedWrites_phase (s : State) (c : Byte) : (s.feedWrites c).phase = phaseAfterFeed s.rem := rfl
@[simp] theorem State.feedWrites_err (s : State) (c : Byte) : (s.feedWrites c).err = s.err := rfl
@[simp] theorem State.feedWrites_rspq (s : State) (c : Byte) : (s.feedWrites c).rspq = s.rspq := rfl
@[simp] theorem State.feedWrites_rspDelays (s : State) (c : Byte) : (s.feedWrites c).rspDelays = s.rspDelays := rfl
@[simp] theorem State.feedWrites_cmdHeld (s : State) (c : Byte) : (s.feedWrites c).cmdHeld = s.cmdHeld := rfl
@[simp] theorem State.feedWrites_edges (s : State) (c : Byte) : (s.feedWrites c).edges = s.edges := rfl
@[simp] theorem State.feedWrites_taken (s : State) (c : Byte) : (s.feedWrites c).taken = s.taken := rfl

@[simp] theorem State.setHeld_sumA (s : State) (h : Option CmdWord) : (s.setHeld h).sumA = s.sumA := rfl
@[simp] theorem State.setHeld_sumB (s : State) (h : Option CmdWord) : (s.setHeld h).sumB = s.sumB := rfl
@[simp] theorem State.setHeld_rem (s : State) (h : Option CmdWord) : (s.setHeld h).rem = s.rem := rfl
@[simp] theorem State.setHeld_phase (s : State) (h : Option CmdWord) : (s.setHeld h).phase = s.phase := rfl
@[simp] theorem State.setHeld_err (s : State) (h : Option CmdWord) : (s.setHeld h).err = s.err := rfl
@[simp] theorem State.setHeld_rspq (s : State) (h : Option CmdWord) : (s.setHeld h).rspq = s.rspq := rfl
@[simp] theorem State.setHeld_rspDelays (s : State) (h : Option CmdWord) : (s.setHeld h).rspDelays = s.rspDelays := rfl
@[simp] theorem State.setHeld_cmdHeld (s : State) (h : Option CmdWord) : (s.setHeld h).cmdHeld = h := rfl
@[simp] theorem State.setHeld_edges (s : State) (h : Option CmdWord) : (s.setHeld h).edges = s.edges := rfl
@[simp] theorem State.setHeld_taken (s : State) (h : Option CmdWord) : (s.setHeld h).taken = s.taken := rfl

@[simp] theorem State.beginAccept_sumA (s : State) : s.beginAccept.sumA = s.sumA := rfl
@[simp] theorem State.beginAccept_sumB (s : State) : s.beginAccept.sumB = s.sumB := rfl
@[simp] theorem State.beginAccept_rem (s : State) : s.beginAccept.rem = s.rem := rfl
@[simp] theorem State.beginAccept_phase (s : State) : s.beginAccept.phase = s.phase := rfl
@[simp] theorem State.beginAccept_err (s : State) : s.beginAccept.err = s.err := rfl
@[simp] theorem State.beginAccept_rspq (s : State) : s.beginAccept.rspq = s.rspq := rfl
@[simp] theorem State.beginAccept_rspDelays (s : State) : s.beginAccept.rspDelays = s.rspDelays ++ [Config.rspWait] := rfl
@[simp] theorem State.beginAccept_cmdHeld (s : State) : s.beginAccept.cmdHeld = none := rfl
@[simp] theorem State.beginAccept_edges (s : State) : s.beginAccept.edges = s.edges := rfl
@[simp] theorem State.beginAccept_taken (s : State) : s.beginAccept.taken = s.taken := rfl

@[simp] theorem State.withOffer_sumA (s : State) (w : CmdWord) : (s.withOffer w).sumA = s.sumA := rfl
@[simp] theorem State.withOffer_sumB (s : State) (w : CmdWord) : (s.withOffer w).sumB = s.sumB := rfl
@[simp] theorem State.withOffer_rem (s : State) (w : CmdWord) : (s.withOffer w).rem = s.rem := rfl
@[simp] theorem State.withOffer_phase (s : State) (w : CmdWord) : (s.withOffer w).phase = s.phase := rfl
@[simp] theorem State.withOffer_err (s : State) (w : CmdWord) : (s.withOffer w).err = s.err := rfl
@[simp] theorem State.withOffer_rspq (s : State) (w : CmdWord) : (s.withOffer w).rspq = s.rspq := rfl
@[simp] theorem State.withOffer_rspDelays (s : State) (w : CmdWord) : (s.withOffer w).rspDelays = s.rspDelays := rfl
@[simp] theorem State.withOffer_cmdHeld (s : State) (w : CmdWord) : (s.withOffer w).cmdHeld = none := rfl
@[simp] theorem State.withOffer_edges (s : State) (w : CmdWord) : (s.withOffer w).edges = offerEdge w :: s.edges := rfl
@[simp] theorem State.withOffer_taken (s : State) (w : CmdWord) : (s.withOffer w).taken = s.taken := rfl

@[simp] theorem State.setEdges_sumA (s : State) (es : List PortEdge) : (s.setEdges es).sumA = s.sumA := rfl
@[simp] theorem State.setEdges_sumB (s : State) (es : List PortEdge) : (s.setEdges es).sumB = s.sumB := rfl
@[simp] theorem State.setEdges_rem (s : State) (es : List PortEdge) : (s.setEdges es).rem = s.rem := rfl
@[simp] theorem State.setEdges_phase (s : State) (es : List PortEdge) : (s.setEdges es).phase = s.phase := rfl
@[simp] theorem State.setEdges_err (s : State) (es : List PortEdge) : (s.setEdges es).err = s.err := rfl
@[simp] theorem State.setEdges_rspq (s : State) (es : List PortEdge) : (s.setEdges es).rspq = s.rspq := rfl
@[simp] theorem State.setEdges_rspDelays (s : State) (es : List PortEdge) : (s.setEdges es).rspDelays = s.rspDelays := rfl
@[simp] theorem State.setEdges_cmdHeld (s : State) (es : List PortEdge) : (s.setEdges es).cmdHeld = s.cmdHeld := rfl
@[simp] theorem State.setEdges_edges (s : State) (es : List PortEdge) : (s.setEdges es).edges = es := rfl
@[simp] theorem State.setEdges_taken (s : State) (es : List PortEdge) : (s.setEdges es).taken = s.taken := rfl

/-- The response port leaves every register, the command port and the host's plan alone. -/
theorem State.transfer_frame (s : State) (e : PortEdge) :
    (s.transfer e).sumA = s.sumA ∧ (s.transfer e).sumB = s.sumB ∧ (s.transfer e).rem = s.rem ∧
      (s.transfer e).phase = s.phase ∧ (s.transfer e).err = s.err ∧ (s.transfer e).cmdHeld = s.cmdHeld ∧
      (s.transfer e).edges = s.edges := by
  unfold State.transfer
  split <;> exact ⟨rfl, rfl, rfl, rfl, rfl, rfl, rfl⟩

@[simp] theorem State.transfer_sumA (s : State) (e : PortEdge) : (s.transfer e).sumA = s.sumA :=
  (s.transfer_frame e).1
@[simp] theorem State.transfer_sumB (s : State) (e : PortEdge) : (s.transfer e).sumB = s.sumB :=
  (s.transfer_frame e).2.1
@[simp] theorem State.transfer_rem (s : State) (e : PortEdge) : (s.transfer e).rem = s.rem :=
  (s.transfer_frame e).2.2.1
@[simp] theorem State.transfer_phase (s : State) (e : PortEdge) : (s.transfer e).phase = s.phase :=
  (s.transfer_frame e).2.2.2.1
@[simp] theorem State.transfer_err (s : State) (e : PortEdge) : (s.transfer e).err = s.err :=
  (s.transfer_frame e).2.2.2.2.1
@[simp] theorem State.transfer_cmdHeld (s : State) (e : PortEdge) : (s.transfer e).cmdHeld = s.cmdHeld :=
  (s.transfer_frame e).2.2.2.2.2.1
@[simp] theorem State.transfer_edges (s : State) (e : PortEdge) : (s.transfer e).edges = s.edges :=
  (s.transfer_frame e).2.2.2.2.2.2

/-- STATUS reads ERR and PHASE and nothing else. -/
theorem State.status_eq (s : State) : s.status = statusWord s.err s.phase := rfl

end Sys2Proof.Machine
end

