-- ==== Sys2Proof/Laws/Ops.lean ====
section
/-!
SUPPORT. What each shared operation, each command and the acceptance of a word can answer, said once.
-/

namespace Sys2Proof.Machine

/-- A command step answers only its effect, and only at a legal PHASE. -/
theorem command_next {s t : State} {f : State → State} :
    command s f = .next t ↔ s.phase ≠ .reserved ∧ t = f s := by
  unfold command
  split <;> simp_all [eq_comm]

/-- At a legal PHASE a command step has its effect. -/
theorem command_of_legal {s : State} (h : s.phase ≠ .reserved) (f : State → State) : command s f = .next (f s) := by
  simp [command, h]

/-- At PHASE = 0b11 a command step is refused. -/
theorem command_of_reserved {s : State} (h : s.phase = .reserved) (f : State → State) :
    command s f = .refused .reservedPhase := by
  simp [command, h]

/-- What the state becomes when a decoded word is accepted: every command's effect in one place. -/
def effectOf (d : Decoded) (s : State) : State :=
  match d with
  | .command .nop => s.respond .ok 0x00000000#32
  | .command (.start len) =>
    if lenTooLarge len then s.raiseError .tooLarge else (s.startWrites len).respondStatus .ok
  | .command (.feed c) => if s.phase = .run then (s.feedWrites c).respondStatus .ok else s.raiseError .protocol
  | .command .readDigest => s.respond .ok (pack s.sumA s.sumB)
  | .command .readStatus => s.respond .ok s.status
  | .command .readRemaining => s.respond .ok s.rem
  | .command .clear => s.clearRegs.respondStatus .ok
  | .illegal _ => s.raiseError .illegal

/-- Each command is one guarded step with its own effect. -/
theorem exec_eq_command (i : Instr) (s : State) : exec i s = command s (effectOf (.command i)) := by
  cases i <;> rfl

/-- Accepting a word is one guarded step with the effect of what it decodes to. -/
theorem acceptWord_eq_command (w : CmdWord) (s : State) : acceptWord w s = command s (effectOf (decode w)) := by
  unfold acceptWord
  split
  · next i h => rw [exec_eq_command, h]
  · next op h => rw [h]; rfl

/-- Accepting a word, inverted. -/
theorem acceptWord_next {w : CmdWord} {s t : State} :
    acceptWord w s = .next t ↔ s.phase ≠ .reserved ∧ t = effectOf (decode w) s := by
  rw [acceptWord_eq_command, command_next]

/-- A command, inverted. -/
theorem exec_next {i : Instr} {s t : State} :
    exec i s = .next t ↔ s.phase ≠ .reserved ∧ t = effectOf (.command i) s := by
  rw [exec_eq_command, command_next]

/-- At a legal PHASE a word has the effect of what it decodes to. -/
theorem acceptWord_of_legal {s : State} (h : s.phase ≠ .reserved) (w : CmdWord) :
    acceptWord w s = .next (effectOf (decode w) s) :=
  acceptWord_next.2 ⟨h, rfl⟩

/-- No effect touches the ports or the host side. -/
theorem effectOf_ports (d : Decoded) (s : State) :
    (effectOf d s).rspDelays = s.rspDelays ∧ (effectOf d s).cmdHeld = s.cmdHeld ∧
      (effectOf d s).edges = s.edges ∧ (effectOf d s).taken = s.taken := by
  cases d with
  | illegal op => exact ⟨rfl, rfl, rfl, rfl⟩
  | command i => cases i <;> simp only [effectOf] <;> (try split) <;> exact ⟨rfl, rfl, rfl, rfl⟩

/-- PHASE after a START is RUN or DONE. -/
theorem phaseAfterStart_ne_reserved (len : Word) : phaseAfterStart len ≠ .reserved := by
  unfold phaseAfterStart; split <;> decide

/-- PHASE after a FEED is RUN or DONE. -/
theorem phaseAfterFeed_ne_reserved (r : Word) : phaseAfterFeed r ≠ .reserved := by
  unfold phaseAfterFeed; split <;> decide

/-- Accepting one more word. -/
theorem acceptAll_cons_of_legal {s : State} (h : s.phase ≠ .reserved) (w : CmdWord) (ws : List CmdWord) :
    acceptAll (w :: ws) s = acceptAll ws (effectOf (decode w) s) := by
  simp [acceptAll, acceptWord_of_legal h]

/-- A word that writes no sum leaves SUMA, SUMB, REM and PHASE. -/
theorem effectOf_readsOnly {w : CmdWord} (h : readsOnly w = true) (s : State) :
    (effectOf (decode w) s).sumA = s.sumA ∧ (effectOf (decode w) s).sumB = s.sumB ∧
      (effectOf (decode w) s).rem = s.rem ∧ (effectOf (decode w) s).phase = s.phase := by
  unfold readsOnly at h
  split at h <;> simp_all [effectOf]

end Sys2Proof.Machine
end

