-- ==== Sys2Proof/Laws/PerInstr.lean ====
section
/-!
SUPPORT. Facts said of every command as syntax, one lemma a constructor.
-/

/-- The word a command encodes to selects its own row of the opcode map (30_encoding rule R65) and no other. -/
def Sys2Proof.Laws.SelectsOwnRow.Statement (i : Sys2Proof.Instr) : Prop :=
  (Sys2Proof.opcodeTable.filter fun r => Sys2Proof.rowSelects r (Sys2Proof.encode i)).map (fun r => r.mnemonic) =
    [Sys2Proof.mnemonicOf i]

theorem Sys2Proof.Laws.SelectsOwnRow.nop : Sys2Proof.Laws.SelectsOwnRow.Statement .nop := by
  rw [Sys2Proof.Laws.SelectsOwnRow.Statement, Sys2Proof.rows_by_opcode, Sys2Proof.encode, Sys2Proof.opcodeOf_cmdWord,
    Sys2Proof.mnemonicOf]
  decide

theorem Sys2Proof.Laws.SelectsOwnRow.start (len : Sys2Proof.Word) : Sys2Proof.Laws.SelectsOwnRow.Statement (.start len) := by
  rw [Sys2Proof.Laws.SelectsOwnRow.Statement, Sys2Proof.rows_by_opcode, Sys2Proof.encode, Sys2Proof.opcodeOf_cmdWord,
    Sys2Proof.mnemonicOf]
  decide

theorem Sys2Proof.Laws.SelectsOwnRow.feed (c : Sys2Proof.Byte) : Sys2Proof.Laws.SelectsOwnRow.Statement (.feed c) := by
  rw [Sys2Proof.Laws.SelectsOwnRow.Statement, Sys2Proof.rows_by_opcode, Sys2Proof.encode, Sys2Proof.opcodeOf_cmdWord,
    Sys2Proof.mnemonicOf]
  decide

theorem Sys2Proof.Laws.SelectsOwnRow.readDigest : Sys2Proof.Laws.SelectsOwnRow.Statement .readDigest := by
  rw [Sys2Proof.Laws.SelectsOwnRow.Statement, Sys2Proof.rows_by_opcode, Sys2Proof.encode, Sys2Proof.opcodeOf_cmdWord,
    Sys2Proof.mnemonicOf]
  decide

theorem Sys2Proof.Laws.SelectsOwnRow.readStatus : Sys2Proof.Laws.SelectsOwnRow.Statement .readStatus := by
  rw [Sys2Proof.Laws.SelectsOwnRow.Statement, Sys2Proof.rows_by_opcode, Sys2Proof.encode, Sys2Proof.opcodeOf_cmdWord,
    Sys2Proof.mnemonicOf]
  decide

theorem Sys2Proof.Laws.SelectsOwnRow.readRemaining : Sys2Proof.Laws.SelectsOwnRow.Statement .readRemaining := by
  rw [Sys2Proof.Laws.SelectsOwnRow.Statement, Sys2Proof.rows_by_opcode, Sys2Proof.encode, Sys2Proof.opcodeOf_cmdWord,
    Sys2Proof.mnemonicOf]
  decide

theorem Sys2Proof.Laws.SelectsOwnRow.clear : Sys2Proof.Laws.SelectsOwnRow.Statement .clear := by
  rw [Sys2Proof.Laws.SelectsOwnRow.Statement, Sys2Proof.rows_by_opcode, Sys2Proof.encode, Sys2Proof.opcodeOf_cmdWord,
    Sys2Proof.mnemonicOf]
  decide
end

