-- ==== Sys2Proof/Laws/Port.lean ====
section
/-!
SUPPORT. What one rising edge can do, said once, and the laws of the response port.
-/

namespace Sys2Proof.Machine

/-- With no edge listed the step leaves the state as it is. -/
theorem step_nil {s : State} (h : s.edges = []) : step s = .next s := by
  simp [step, nextEdge, h]

/-- With an edge listed the step is that edge. -/
theorem step_cons {s : State} {e : PortEdge} {rest : List PortEdge} (h : s.edges = e :: rest) :
    step s = clockEdge e (s.setEdges rest) := by
  simp [step, nextEdge, h]

/-- A reset edge always answers. -/
theorem clockEdge_reset {e : PortEdge} (h : e.rst = true) (s : State) :
    clockEdge e s = .next (s.transfer e).resetEngine := by
  simp [clockEdge, h]

/-- The host's duty at an edge, as a proposition. -/
theorem commandHeld_iff {s : State} {e : PortEdge} :
    s.commandHeld e = true ↔ s.cmdHeld = none ∨ e.cmdValid = true ∧ s.cmdHeld = some e.cmdData := by
  unfold State.commandHeld
  split
  · next h => simp [h]
  · next w h =>
    simp only [h, Bool.and_eq_true, beq_iff_eq, Option.some.injEq, reduceCtorEq, false_or]
    exact and_congr_right fun _ => eq_comm

/-- An edge without reset at a legal PHASE with the duty kept is the command port after the response port. -/
theorem clockEdge_of_legal {s : State} {e : PortEdge} (hr : e.rst = false) (hp : s.phase ≠ .reserved)
    (hh : s.commandHeld e = true) : clockEdge e s = commandPort e (s.transfer e) := by
  simp [clockEdge, hr, hp, hh]

/-- The command port, when it accepts at a legal PHASE. -/
theorem commandPort_accepts {s : State} {e : PortEdge} (ha : e.accepts = true) (hp : s.phase ≠ .reserved) :
    commandPort e s = .next (effectOf (decode e.cmdData) s.beginAccept) := by
  simp only [commandPort, ha, if_true]
  exact acceptWord_of_legal (by simpa using hp) _

/-- The command port, when it does not accept. -/
theorem commandPort_stalls {s : State} {e : PortEdge} (ha : e.accepts = false) :
    commandPort e s = .next (s.setHeld (if e.cmdValid then some e.cmdData else none)) := by
  simp [commandPort, ha]

/-- One rising edge, inverted: a reset, an acceptance, or an edge that accepts nothing. -/
theorem clockEdge_cases {e : PortEdge} {s t : State} (h : clockEdge e s = .next t) :
    (e.rst = true ∧ t = (s.transfer e).resetEngine) ∨
    (e.rst = false ∧ s.phase ≠ .reserved ∧ s.commandHeld e = true ∧ e.accepts = true ∧
      t = effectOf (decode e.cmdData) (s.transfer e).beginAccept) ∨
    (e.rst = false ∧ s.phase ≠ .reserved ∧ s.commandHeld e = true ∧ e.accepts = false ∧
      t = (s.transfer e).setHeld (if e.cmdValid then some e.cmdData else none)) := by
  unfold clockEdge at h
  split at h
  · next hr => cases h; exact .inl ⟨hr, rfl⟩
  · next hr =>
    have hr : e.rst = false := by simpa using hr
    split at h
    · cases h
    · next hp =>
      split at h
      · next hh =>
        cases ha : e.accepts
        · rw [commandPort_stalls ha] at h
          cases h; exact .inr (.inr ⟨hr, hp, hh, rfl, rfl⟩)
        · rw [commandPort_accepts ha (by simpa using hp)] at h
          cases h; exact .inr (.inl ⟨hr, hp, hh, rfl, rfl⟩)
      · cases h

/-- One step, inverted: nothing to do, or one edge. -/
theorem step_cases {s t : State} (h : step s = .next t) :
    (s.edges = [] ∧ t = s) ∨ ∃ e rest, s.edges = e :: rest ∧ clockEdge e (s.setEdges rest) = .next t := by
  cases he : s.edges with
  | nil => rw [step_nil he] at h; cases h; exact .inl ⟨rfl, rfl⟩
  | cons e rest => rw [step_cons he] at h; exact .inr ⟨e, rest, rfl, h⟩

/-- `rsp_valid` does not depend on the edges to come. -/
@[simp] theorem rspValid_setEdges (s : State) (es : List PortEdge) : (s.setEdges es).rspValid = s.rspValid := rfl

/-- `rsp_valid` is high exactly for a front of RSPQ whose RSP_LATENCY has passed. -/
theorem rspValid_iff {s : State} : s.rspValid = true ↔ s.rspq ≠ [] ∧ ∃ ds, s.rspDelays = 0 :: ds := by
  cases hd : s.rspDelays <;> simp [State.rspValid, hd]

/-- A valid offer has a front of RSPQ behind it. -/
theorem rspValid_ne_nil {s : State} (h : s.rspValid = true) : s.rspq ≠ [] := (rspValid_iff.1 h).1

/-- RSP_LATENCY is at least 1. -/
theorem rspLatency_pos : 1 ≤ Config.rspLatency := Nat.le_add_left 1 _

/-- The delay a new response starts with is below RSP_LATENCY. -/
theorem rspWait_lt : Config.rspWait < Config.rspLatency := Nat.lt_succ_self _

/-- A cycle that passes keeps the number of delays. -/
@[simp] theorem length_cyclePasses (ds : List Nat) : (cyclePasses ds).length = ds.length := List.length_map _

/-- A cycle that passes for one delay after another. -/
@[simp] theorem cyclePasses_cons (d : Nat) (ds : List Nat) : cyclePasses (d :: ds) = (d - 1) :: cyclePasses ds := rfl

/-- With no delay pending none is left. -/
@[simp] theorem cyclePasses_nil : cyclePasses [] = [] := rfl

/-- Delays stay below what they were below. -/
theorem cyclePasses_lt {ds : List Nat} {n : Nat} (h : ∀ d ∈ ds, d < n) : ∀ d ∈ cyclePasses ds, d < n := by
  intro d hd
  obtain ⟨d', hd', rfl⟩ := List.mem_map.1 hd
  exact lt_of_le_of_lt (Nat.pred_le d') (h d' hd')

/-- The response port hands over the front, or nothing: taken and RSPQ together keep their responses in order. -/
theorem transfer_keeps_responses (s : State) (e : PortEdge) :
    (s.transfer e).taken ++ (s.transfer e).rspq = s.taken ++ s.rspq := by
  unfold State.transfer
  split
  · cases s.rspq <;> simp
  · rfl

/-- The response port, when it transfers. -/
theorem transfer_of_valid_ready {s : State} {e : PortEdge} (hv : s.rspValid = true) (hr : e.rspReady = true) :
    s.transfer e =
      { s with
        rspq := s.rspq.tail
        taken := s.taken ++ s.rspq.head?.toList
        rspDelays := cyclePasses s.rspDelays.tail } := by
  simp [State.transfer, hv, hr]

/-- The response port, when it does not transfer. -/
theorem transfer_of_not {s : State} {e : PortEdge} (h : (s.rspValid && e.rspReady) = false) :
    s.transfer e = { s with rspDelays := cyclePasses s.rspDelays } := by
  simp [State.transfer, h]

/-- The response port keeps one delay for each response. -/
theorem transfer_length {s : State} (e : PortEdge) (h : s.rspDelays.length = s.rspq.length) :
    (s.transfer e).rspDelays.length = (s.transfer e).rspq.length := by
  unfold State.transfer
  split <;> simp [h]

/-- The response port keeps every delay below a bound. -/
theorem transfer_delays_lt {s : State} (e : PortEdge) {n : Nat} (h : ∀ d ∈ s.rspDelays, d < n) :
    ∀ d ∈ (s.transfer e).rspDelays, d < n := by
  unfold State.transfer
  split
  · exact cyclePasses_lt fun d hd => h d (List.mem_of_mem_tail hd)
  · exact cyclePasses_lt h

end Sys2Proof.Machine
end

