-- ==== Sys2Proof/Laws/Run.lean ====
section
/-!
SUPPORT. Runs of several edges, unfolded one edge at a time.
-/

namespace Sys2Proof.Machine

/-- A run of no edges. -/
theorem run_zero (s : State) : Sys2Proof.core.run 0 s = .next s := rfl

/-- A run of one more edge, as the host's interface defines it. -/
theorem run_succ (s : State) (k : Nat) :
    Sys2Proof.core.run (k + 1) s =
      match Sys2Proof.core.step s with
      | .next t => Sys2Proof.core.run k t
      | .fault r => .fault r
      | .refused r => .refused r := by
  cases h : Sys2Proof.core.step s <;> simp only [Host.Core.run, h]

/-- A run whose first edge answers goes on from its answer. -/
theorem run_of_next {s t : State} (k : Nat) (h : step s = .next t) :
    Sys2Proof.core.run (k + 1) s = Sys2Proof.core.run k t := by
  have h' : Sys2Proof.core.step s = .next t := h
  rw [run_succ, h']

/-- A run that answers, inverted at its first edge. -/
theorem run_next {s t : State} {k : Nat} (h : Sys2Proof.core.run (k + 1) s = .next t) :
    ∃ u : State, step s = .next u ∧ Sys2Proof.core.run k u = .next t := by
  rw [run_succ] at h
  split at h
  · next u hu => exact ⟨u, hu, h⟩
  · cases h
  · cases h

end Sys2Proof.Machine
end

