-- ==== Sys2Proof/Tests/Slice0.lean ====
section
/-!
SUPPORT. The package's own tests. Expected values come from spec/95_test_vectors.md and the worked examples of the rules, not from the model.
The witness theorems show, for each statement with hypotheses, concrete states and operands that meet them.
-/

open Sys2Proof Sys2Proof.Machine

namespace Sys2Proof.Tests

/-! ### Small states -/

/-- RUN after START 3 and FEED 0x41 (95_test_vectors P3). -/
def runState : State := { State.reset with sumA := 0x0041#16, sumB := 0x00C3#16, rem := 2#32, phase := .run }

/-- RUN with one byte left and a wrap ahead (95_test_vectors 2.5). -/
def lastByteState : State := { State.reset with sumA := 0xFF01#16, rem := 1#32, phase := .run }

/-- RUN with the weight's low bits 0 (95_test_vectors 2.5). -/
def zeroWeightState : State := { State.reset with sumB := 0x1234#16, rem := 0x00010000#32, phase := .run }

/-- RUN after a refused START in P6. -/
def tooLargeState : State :=
  { State.reset with sumA := 0x0001#16, sumB := 0xFFFF#16, rem := 0x7FFFFFFE#32, phase := .run, err := .tooLarge }

/-- DONE after "AB" (95_test_vectors P1). -/
def doneState : State := { State.reset with sumA := 0x0083#16, sumB := 0x00C4#16, phase := .done }

/-- PHASE = 0b11. -/
def reservedState : State := { State.reset with phase := .reserved }

/-- An edge with every input low. -/
def quietEdge : PortEdge := ⟨false, false, 0x0000000000#40, false, false⟩

/-- A reset edge at which the host offers a command, `cmd_ready` is high and the host takes a response. -/
def resetEdge : PortEdge := ⟨true, true, 0x0100000002#40, true, true⟩

/-- The host offers `w` and the engine does not accept it. -/
def stallEdge (w : CmdWord) : PortEdge := ⟨false, true, w, false, false⟩

/-- The host is ready for a response and offers no command. -/
def takeEdge : PortEdge := ⟨false, false, 0x0000000000#40, true, false⟩

/-- DONE after "AB" with one response queued and valid. -/
def offeringState : State := { doneState with rspq := [⟨.ok, 0x00000002#32⟩], rspDelays := [0] }

/-- DONE after "AB" with one response queued, valid in one cycle. -/
def waitingState : State := { doneState with rspq := [⟨.ok, 0x00000002#32⟩], rspDelays := [1] }

/-- The next state, or the reset state where there is none. -/
def nextOf (o : Host.Outcome State Fault Refusal) : State :=
  match o with
  | .next t => t
  | .fault _ => State.reset
  | .refused _ => State.reset

/-- The last response queued. -/
def lastOf (o : Host.Outcome State Fault Refusal) : Option Response := (nextOf o).rspq.getLast?

/-! ### Well-formedness: one ill-formed line for each check -/

theorem test_start_line_too_long_refused : (AsmLine.start (2 ^ 32)).wellFormed = false := by decide
theorem test_feed_line_not_a_byte_refused : (AsmLine.feed 256).wellFormed = false := by decide
theorem test_raw_word_too_long_refused : (AsmLine.rawWord (2 ^ 40)).wellFormed = false := by decide
theorem test_checksum_line_not_bytes_refused : (AsmLine.checksum [0x41, 256]).wellFormed = false := by decide
theorem test_feeds_line_not_bytes_refused : (AsmLine.feeds [256]).wellFormed = false := by decide
theorem test_checksum_line_too_many_refused (bs : List Nat) (h : bs.length = 0x80000000) :
    (AsmLine.checksum bs).wellFormed = false := by
  simp [AsmLine.wellFormed, h]
theorem test_lines_at_their_limits_accepted :
    (AsmLine.start (2 ^ 32 - 1)).wellFormed = true ∧ (AsmLine.feed 255).wellFormed = true ∧
    (AsmLine.rawWord (2 ^ 40 - 1)).wellFormed = true ∧ (AsmLine.checksum [0, 255]).wellFormed = true := by decide

/-! ### Decoding: words written out from 30_encoding R65 and 95_test_vectors -/

theorem test_decode_nop : decode 0x0012345678#40 = .command .nop := by decide
theorem test_decode_start : decode 0x017FFFFFFF#40 = .command (.start 0x7FFFFFFF#32) := by decide
theorem test_decode_start_too_large : decode 0x01FFFFFFFF#40 = .command (.start 0xFFFFFFFF#32) := by decide
theorem test_decode_feed : decode 0x0200000041#40 = .command (.feed 0x41#8) := by decide
theorem test_decode_feed_ignored_bits : decode 0x0200000141#40 = .command (.feed 0x41#8) := by decide
theorem test_decode_readDigest : decode 0x0300000000#40 = .command .readDigest := by decide
theorem test_decode_readStatus : decode 0x0400000000#40 = .command .readStatus := by decide
theorem test_decode_readRemaining : decode 0x05FFFFFFFF#40 = .command .readRemaining := by decide
theorem test_decode_clear : decode 0x0600000000#40 = .command .clear := by decide
theorem test_decode_first_illegal : decode 0x0700000000#40 = .illegal 0x07#8 := by decide
theorem test_decode_last_illegal : decode 0xFFFFFFFFFF#40 = .illegal 0xFF#8 := by decide
theorem test_encode_start_258 : encode (.start 258#32) = 0x0100000102#40 := by decide
theorem test_encode_feed_ff : encode (.feed 0xFF#8) = 0x02000000FF#40 := by decide
theorem test_table_word_start : decodeTableWord 40 0x0100000000 = some (.start 0#32) := by decide
theorem test_table_word_illegal : decodeTableWord 40 0x0700000000 = none := by decide
theorem test_checksum_line_words :
    asmWords (.checksum [0x41, 0x42]) = [0x0100000002#40, 0x0200000041#40, 0x0200000042#40, 0x0300000000#40] := by decide

/-! ### Datapath: 95_test_vectors 2.1 and 2.2 -/

theorem test_add16_no_signed_overflow : add16 0x7FFF#16 0x0001#16 = 0x8000#16 := by decide
theorem test_add16_wraps_to_zero : add16 0xFF01#16 0x00FF#16 = 0x0000#16 := by decide
theorem test_wmul_wraps : wmul 0x0102#16 0xFF#8 = 0x00FE#16 ∧ wmul 0xFFFE#16 0x02#8 = 0xFFFC#16 := by decide
theorem test_dec32 : dec32 2#32 = 1#32 := by decide
theorem test_pack : pack 0x0083#16 0x00C4#16 = 0x008300C4#32 := by decide
theorem test_digest_bytes_big_endian : (List.ofFn fun k : Fin 4 => digestByte 0x010001FF#32 k) = [0x01#8, 0x00#8, 0x01#8, 0xFF#8] := by
  decide

/-! ### The reference function: 95_test_vectors S1 to S3, V5, V7, V8d -/

theorem test_compute_empty : compute [] = 0x00000000#32 := by decide
theorem test_compute_a : compute [0x41#8] = 0x00410041#32 := by decide
theorem test_compute_ab : compute [0x41#8, 0x42#8] = 0x008300C4#32 := by decide
theorem test_compute_abcd : compute [0x61#8, 0x62#8, 0x63#8, 0x64#8] = 0x018A03D4#32 := by decide
theorem test_compute_ff01 : compute [0xFF#8, 0x01#8] = 0x010001FF#32 := by decide
theorem test_compute_ff80 : compute [0xFF#8, 0x80#8] = 0x017F027E#32 := by decide

/-! ### One command each: 95_test_vectors 2.4 to 2.8 -/

theorem test_nop : lastOf (exec .nop runState) = some ⟨.ok, 0x00000000#32⟩ := by decide
theorem test_start_zero_is_done :
    (nextOf (exec (.start 0#32) runState)).phase = .done ∧ lastOf (exec (.start 0#32) runState) = some ⟨.ok, 0x00000002#32⟩ := by
  decide
theorem test_start_too_large_keeps_run :
    nextOf (exec (.start 0xFFFFFFFF#32) { tooLargeState with err := .ok }) =
      { tooLargeState with rspq := [⟨.tooLarge, 0x0000000D#32⟩] } := by decide
theorem test_feed_last_byte_wraps :
    nextOf (exec (.feed 0xFF#8) lastByteState) =
      { lastByteState with
        sumA := 0x0000#16, sumB := 0x00FF#16, rem := 0#32, phase := .done, rspq := [⟨.ok, 0x00000002#32⟩] } := by decide
theorem test_feed_keeps_err :
    nextOf (exec (.feed 0x02#8) tooLargeState) =
      { tooLargeState with
        sumA := 0x0003#16, sumB := 0xFFFB#16, rem := 0x7FFFFFFD#32, rspq := [⟨.ok, 0x0000000D#32⟩] } := by decide
theorem test_read_digest_partial : lastOf (exec .readDigest runState) = some ⟨.ok, 0x004100C3#32⟩ := by decide
theorem test_read_digest_done : lastOf (exec .readDigest doneState) = some ⟨.ok, 0x008300C4#32⟩ := by decide
theorem test_read_status : lastOf (exec .readStatus tooLargeState) = some ⟨.ok, 0x0000000D#32⟩ := by decide
theorem test_read_remaining : lastOf (exec .readRemaining tooLargeState) = some ⟨.ok, 0x7FFFFFFE#32⟩ := by decide
theorem test_clear :
    nextOf (exec .clear { doneState with err := .protocol, rspq := [⟨.ok, 0x00000002#32⟩] }) =
      { State.reset with rspq := [⟨.ok, 0x00000002#32⟩, ⟨.ok, 0x00000000#32⟩] } := by decide
theorem test_illegal_word_in_run :
    nextOf (acceptWord 0x8000000041#40 { runState with sumB := 0x0082#16 }) =
      { runState with sumB := 0x0082#16, err := .illegal, rspq := [⟨.illegal, 0x00000005#32⟩] } := by decide
theorem test_feed_after_done : lastOf (exec (.feed 0x01#8) doneState) = some ⟨.protocol, 0x0000000A#32⟩ := by decide

/-! ### One edge each -/

theorem test_first_step_after_reset_runs_the_word :
    nextOf (step (State.reset.withFetchWord 40 0x0100000002)) =
      { State.reset with
        rem := 2#32, phase := .run, rspq := [⟨.ok, 0x00000001#32⟩], rspDelays := [Config.rspWait] } := rfl
theorem test_reset_edge_beats_command :
    nextOf (step
      { doneState with rspq := [⟨.ok, 0x00000002#32⟩, ⟨.ok, 0x00000000#32⟩], rspDelays := [0, 0], edges := [resetEdge] }) =
      { State.reset with taken := [⟨.ok, 0x00000002#32⟩] } := by decide
theorem test_stall_holds_the_word :
    nextOf (step { State.reset with edges := [stallEdge 0x0100000002#40] }) =
      { State.reset with cmdHeld := some 0x0100000002#40 } := by decide
theorem test_response_word :
    ({ State.reset with rspq := [⟨.illegal, 0x00000004#32⟩], rspDelays := [0] }.outputs takeEdge).rspData = some 0x100000004#34 := by decide
theorem test_response_not_valid_early :
    nextOf (step { waitingState with edges := [takeEdge] }) = offeringState := by decide
theorem test_illegal_word_accepted_like_any_other :
    nextOf (step { State.reset with edges := [offerEdge 0x0700000000#40] }) =
      { State.reset with err := .illegal, rspq := [⟨.illegal, 0x00000004#32⟩], rspDelays := [Config.rspWait] } := rfl
theorem test_no_edge_no_change : step State.reset = .next State.reset := rfl

/-! ### Witnesses: states and operands that meet the hypotheses of the statements -/

theorem test_witness_wmul_and_feed_in_run :
    runState.phase = .run ∧ exec (.feed 0x42#8) runState = .next (nextOf (exec (.feed 0x42#8) runState)) ∧
    exec (.feed 0x00#8) runState = .next (nextOf (exec (.feed 0x00#8) runState)) := ⟨rfl, rfl, rfl⟩

theorem test_witness_weight_width : 16 ≤ 16 ∧ 16 ≤ 32 := by decide

theorem test_witness_countdown :
    1#32 ≤ 1#32 ∧ 1#32 ≤ 0xFFFFFFFF#32 ∧ runState.Consistent ∧ runState.phase = .run ∧
    exec (.feed 0x42#8) doneState = .next (nextOf (exec (.feed 0x42#8) doneState)) := ⟨by decide, by decide, by decide, rfl, rfl⟩

theorem test_witness_opcode_map :
    0x00FFFFFFFF#40 &&& 0xFF00000000#40 = 0x0000000000#40 ∧ 0x0180000000#40 &&& 0xFF00000000#40 = 0x0100000000#40 ∧
    0x02FFFFFF42#40 &&& 0xFF00000000#40 = 0x0200000000#40 ∧ 0x0300000001#40 &&& 0xFF00000000#40 = 0x0300000000#40 ∧
    0x0400000001#40 &&& 0xFF00000000#40 = 0x0400000000#40 ∧ 0x05FFFFFFFF#40 &&& 0xFF00000000#40 = 0x0500000000#40 ∧
    0x06FFFFFFFF#40 &&& 0xFF00000000#40 = 0x0600000000#40 ∧ 7 ≤ ((0x0700000000#40).extractLsb' 32 8).toNat ∧
    7 ≤ ((0xFFFFFFFFFF#40).extractLsb' 32 8).toNat := by decide

theorem test_witness_ignored_bits :
    (0x0200000141#40).extractLsb' 32 8 = (0x02FFFFFF41#40).extractLsb' 32 8 ∧ (0x0200000141#40).extractLsb' 32 8 ≠ 0x01#8 ∧
    (0x0200000141#40).extractLsb' 0 8 = (0x02FFFFFF41#40).extractLsb' 0 8 ∧
    (0x0000000000#40).extractLsb' 32 8 = (0x0012345678#40).extractLsb' 32 8 ∧ (0x0000000000#40).extractLsb' 32 8 ≠ 0x01#8 ∧
    (0x0000000000#40).extractLsb' 32 8 ≠ 0x02#8 := by decide

theorem test_witness_legal_phases :
    State.reset.phase ≠ .reserved ∧ runState.phase ≠ .reserved ∧ doneState.phase ≠ .reserved := by decide

theorem test_witness_start :
    (0#32 : Word) < 0x80000000#32 ∧ (0x7FFFFFFF#32 : Word) < 0x80000000#32 ∧ (0x80000000#32 : Word) ≤ 0x80000000#32 ∧
    (0x80000000#32 : Word) ≤ 0xFFFFFFFF#32 ∧
    exec (.start 2#32) runState = .next (nextOf (exec (.start 2#32) runState)) ∧
    exec (.start 0x80000000#32) runState = .next (nextOf (exec (.start 0x80000000#32) runState)) :=
  ⟨by decide, by decide, by decide, by decide, rfl, rfl⟩

theorem test_witness_clear : exec .clear doneState = .next (nextOf (exec .clear doneState)) := rfl

theorem test_witness_feed_corners :
    lastByteState.phase = .run ∧ lastByteState.sumA = 0xFF01#16 ∧
    exec (.feed 0xFF#8) lastByteState = .next (nextOf (exec (.feed 0xFF#8) lastByteState)) ∧
    zeroWeightState.phase = .run ∧ 65536 ∣ zeroWeightState.rem.toNat ∧
    exec (.feed 0xFF#8) zeroWeightState = .next (nextOf (exec (.feed 0xFF#8) zeroWeightState)) ∧
    State.reset.phase = .idle ∧ doneState.phase = .done :=
  ⟨rfl, rfl, rfl, rfl, by decide, rfl, rfl, rfl⟩

theorem test_witness_reads :
    doneState.sumA ++ doneState.sumB = compute [0x41#8, 0x42#8] ∧
    State.reset.Consistent ∧ State.reset.phase = .idle ∧ runState.Consistent ∧ doneState.Consistent ∧ doneState.phase = .done ∧
    exec .nop runState = .next (nextOf (exec .nop runState)) ∧
    exec .readDigest runState = .next (nextOf (exec .readDigest runState)) ∧
    exec .readStatus runState = .next (nextOf (exec .readStatus runState)) ∧
    exec .readRemaining runState = .next (nextOf (exec .readRemaining runState)) ∧
    exec .readRemaining doneState = .next (nextOf (exec .readRemaining doneState)) :=
  ⟨by decide, by decide, rfl, by decide, by decide, rfl, rfl, rfl, rfl, rfl, rfl⟩

theorem test_witness_errors :
    acceptWord 0x0700000000#40 State.reset = .next (nextOf (acceptWord 0x0700000000#40 State.reset)) ∧
    (nextOf (acceptWord 0x0700000000#40 State.reset)).rspq = State.reset.rspq ++ [⟨.illegal, 0x00000004#32⟩] ∧
    (⟨.illegal, 0x00000004#32⟩ : Response).code ≠ .ok ∧
    acceptWord 0x0200000041#40 doneState = .next (nextOf (acceptWord 0x0200000041#40 doneState)) ∧
    (nextOf (acceptWord 0x0200000041#40 doneState)).rspq = doneState.rspq ++ [⟨.protocol, 0x0000000A#32⟩] ∧
    acceptWord 0x0180000000#40 runState = .next (nextOf (acceptWord 0x0180000000#40 runState)) ∧
    (nextOf (acceptWord 0x0180000000#40 runState)).rspq = runState.rspq ++ [⟨.tooLarge, 0x0000000D#32⟩] :=
  ⟨rfl, by decide, by decide, rfl, by decide, rfl, by decide⟩

theorem test_witness_err_writers :
    acceptWord 0x0100000002#40 tooLargeState = .next (nextOf (acceptWord 0x0100000002#40 tooLargeState)) ∧
    decode 0x0100000002#40 = .command (.start 2#32) ∧
    acceptWord 0x0600000000#40 tooLargeState = .next (nextOf (acceptWord 0x0600000000#40 tooLargeState)) ∧
    decode 0x0600000000#40 = .command .clear ∧
    acceptWord 0x0400000000#40 tooLargeState = .next (nextOf (acceptWord 0x0400000000#40 tooLargeState)) ∧
    resetEdge.rst = true ∧ clockEdge resetEdge tooLargeState = .next (nextOf (clockEdge resetEdge tooLargeState)) :=
  ⟨rfl, by decide, rfl, by decide, rfl, rfl, rfl⟩

theorem test_witness_phase_transitions :
    acceptWord 0x0100000000#40 runState = .next (nextOf (acceptWord 0x0100000000#40 runState)) ∧
    decode 0x0100000000#40 = .command (.start 0#32) ∧
    acceptWord 0x017FFFFFFF#40 runState = .next (nextOf (acceptWord 0x017FFFFFFF#40 runState)) ∧
    decode 0x017FFFFFFF#40 = .command (.start 0x7FFFFFFF#32) ∧ (1#32 : Word) ≤ 0x7FFFFFFF#32 ∧
    acceptWord 0x0200000042#40 lastByteState = .next (nextOf (acceptWord 0x0200000042#40 lastByteState)) ∧
    decode 0x0200000042#40 = .command (.feed 0x42#8) ∧ lastByteState.rem = 1#32 ∧
    acceptWord 0x0200000042#40 runState = .next (nextOf (acceptWord 0x0200000042#40 runState)) ∧ (2#32 : Word) ≤ runState.rem ∧
    acceptWord 0x0200000042#40 doneState = .next (nextOf (acceptWord 0x0200000042#40 doneState)) ∧
    readsOnly 0x0300000000#40 = true ∧ readsOnly 0x0700000000#40 = true :=
  ⟨rfl, by decide, rfl, by decide, by decide, rfl, by decide, rfl, rfl, by decide, rfl, by decide, by decide⟩

theorem test_witness_word_streams :
    acceptAll [0x0100000002#40, 0x0700000000#40, 0x0200000041#40] State.reset =
      .next (nextOf (acceptAll [0x0100000002#40, 0x0700000000#40, 0x0200000041#40] State.reset)) ∧
    acceptAll [0x0100000002#40] State.reset = .next (nextOf (acceptAll [0x0100000002#40] State.reset)) := ⟨rfl, rfl⟩

theorem test_witness_sum_writers :
    step (State.reset.withFetchWord 40 0x0100000002) = .next (nextOf (step (State.reset.withFetchWord 40 0x0100000002))) ∧
    (nextOf (step (State.reset.withFetchWord 40 0x0100000002))).rem ≠ State.reset.rem := ⟨rfl, by decide⟩

theorem test_witness_invariant_step :
    (runState.withFetchWord 40 0x0200000042).Consistent ∧ offeringState.Consistent ∧
    step (runState.withFetchWord 40 0x0200000042) = .next (nextOf (step (runState.withFetchWord 40 0x0200000042))) :=
  ⟨⟨by decide, by decide, by decide, by decide, rfl, by simp [runState, State.withFetchWord, State.reset]⟩,
    ⟨by decide, by decide, by decide, by decide, rfl, by simp [offeringState, Config.rspLatency]⟩, rfl⟩

theorem test_witness_reset_edge :
    ({ reservedState with edges := [resetEdge, resetEdge] } : State).edges = resetEdge :: [resetEdge] ∧ resetEdge.rst = true ∧
    [resetEdge] = resetEdge :: [] := ⟨rfl, rfl, rfl⟩

theorem test_witness_step_runs_command :
    (runState.withOffer 0x0200000042#40).edges = offerEdge 0x0200000042#40 :: [] ∧
    (offerEdge 0x0200000042#40).rst = false ∧ (offerEdge 0x0200000042#40).cmdValid = true ∧
    (offerEdge 0x0200000042#40).cmdReady = true ∧ (runState.withOffer 0x0200000042#40).phase ≠ .reserved ∧
    (runState.withOffer 0x0200000042#40).cmdHeld = none ∧
    ({ runState with cmdHeld := some 0x0700000000#40, edges := [offerEdge 0x0700000000#40] } : State).cmdHeld =
      some (offerEdge 0x0700000000#40).cmdData ∧
    decode (offerEdge 0x0200000042#40).cmdData = .command (.feed 0x42#8) ∧
    decode (offerEdge 0x0700000000#40).cmdData = .illegal 0x07#8 ∧ decodeTableWord 40 0x0200000042 = some (.feed 0x42#8) :=
  ⟨rfl, rfl, rfl, rfl, by decide, rfl, rfl, by decide, by decide, by decide⟩

theorem test_witness_stalled_edge :
    (stallEdge 0x0100000002#40).rst = false ∧ (stallEdge 0x0100000002#40).accepts = false ∧
    (stallEdge 0x0100000002#40).cmdValid = true ∧ quietEdge.rst = false ∧ quietEdge.accepts = false ∧
    State.reset.cmdHeld = none ∧
    ({ State.reset with cmdHeld := some 0x0100000002#40 } : State).cmdHeld = some (stallEdge 0x0100000002#40).cmdData := by decide

theorem test_witness_response_transfer :
    let s : State := { offeringState with edges := [takeEdge] }
    s.edges = takeEdge :: [] ∧ step s = .next (nextOf (step s)) ∧ s.rspq = ⟨.ok, 0x00000002#32⟩ :: [] ∧
    s.rspValid = true ∧ takeEdge.rspReady = true ∧ takeEdge.rst = false ∧
    step { waitingState with edges := [takeEdge] } = .next (nextOf (step { waitingState with edges := [takeEdge] })) ∧
    waitingState.rspValid = false ∧ quietEdge.rspReady = false := ⟨rfl, rfl, rfl, rfl, rfl, rfl, rfl, rfl, rfl⟩

theorem test_witness_response_stays :
    let s : State := { offeringState with edges := [quietEdge] }
    s.edges = quietEdge :: [] ∧ step s = .next (nextOf (step s)) ∧ quietEdge.rst = false ∧ s.rspValid = true ∧
    quietEdge.rspReady = false ∧ State.reset.rspq = [] := ⟨rfl, rfl, rfl, rfl, rfl, rfl⟩

theorem test_witness_command_not_held :
    let s : State := { doneState with cmdHeld := some 0x0100000002#40, edges := [quietEdge] }
    s.edges = quietEdge :: [] ∧ quietEdge.rst = false ∧ s.phase ≠ .reserved ∧ s.cmdHeld = some 0x0100000002#40 ∧
    quietEdge.cmdValid = false ∧ (stallEdge 0x0100000003#40).cmdData ≠ 0x0100000002#40 ∧
    step s = .refused .commandNotHeld := ⟨rfl, rfl, by decide, rfl, rfl, by decide, rfl⟩

theorem test_witness_reserved_phase :
    reservedState.phase = .reserved ∧ ({ reservedState with edges := [quietEdge] } : State).edges = quietEdge :: [] ∧
    quietEdge.rst = false ∧ exec .nop reservedState = .refused .reservedPhase := ⟨rfl, rfl, rfl, rfl⟩

theorem test_witness_mid_computation :
    State.reset.phase ≠ .reserved ∧ 3 ≤ 0x7FFFFFFF ∧ ([0x41#8, 0x42#8] : List Byte).length ≤ 3 ∧
    sessionCommands [0x0000000000#40, 0x0100000003#40, 0x0200000041#40, 0x0300000000#40, 0x0700000000#40, 0x0200000142#40] =
      computationOf 3 [0x41#8, 0x42#8] := by decide

theorem test_witness_computation :
    runState.phase ≠ .reserved ∧ ([0x41#8, 0x42#8] : List Byte).length ≤ 0x7FFFFFFF ∧
    sessionCommands [0x0100000002#40, 0x0200000041#40, 0x0500000000#40, 0x0200000042#40] =
      computationOf ([0x41#8, 0x42#8] : List Byte).length [0x41#8, 0x42#8] := by decide

theorem test_witness_empty_computation :
    ([] : List Byte).length ≤ 0x7FFFFFFF ∧
    sessionCommands [0x0100000000#40] = computationOf ([] : List Byte).length [] := by decide

theorem test_witness_computation_without_errors :
    (∀ w ∈ [0x0100000002#40, 0x0200000041#40, 0x0500000000#40, 0x0200000042#40], (BitVec.extractLsb' 32 8 w).toNat < 7) ∧
    runState.noErrorResponse ∧ decode 0x0300000000#40 = .command .readDigest :=
  ⟨by simp, by decide, by decide⟩

theorem test_witness_checksum_line : (AsmLine.checksum [0x41, 0x42]).wellFormed = true ∧ (AsmLine.checksum []).wellFormed = true := by
  decide

theorem test_witness_start_erases :
    runState.phase ≠ .reserved ∧ doneState.phase ≠ .reserved ∧ decode 0x0100000002#40 = .command (.start 2#32) ∧
    (2#32 : Word) < 0x80000000#32 := by decide

theorem test_witness_feeds_past_end : doneState.phase = .done ∧ [0x01#8] ≠ ([] : List Byte) := by decide

theorem test_witness_port_timing :
    let s : State := { State.reset with edges := [stallEdge 0x0100000002#40, offerEdge 0x0100000002#40, takeEdge] }
    (∀ e ∈ s.edges, e.rst = false) ∧ ∃ t : State, Sys2Proof.core.run s.edges.length s = .next t := ⟨by decide, _, rfl⟩

theorem test_witness_port_timing_ended :
    let s : State := { waitingState with edges := [takeEdge, takeEdge] }
    (∀ e ∈ s.edges, e.rst = false) ∧ ∃ t : State, Sys2Proof.core.run s.edges.length s = .next t ∧ t.hostEnded :=
  ⟨by decide, _, rfl, by decide⟩

theorem test_witness_held_command :
    let s : State := { runState with edges := [stallEdge 0x0200000042#40] ++ [offerEdge 0x0200000042#40] }
    s.phase ≠ .reserved ∧ s.cmdHeld = none ∧
    (∀ x ∈ [stallEdge 0x0200000042#40],
      x.rst = false ∧ x.cmdValid = true ∧ x.cmdData = 0x0200000042#40 ∧ x.cmdReady = false) ∧
    (offerEdge 0x0200000042#40).rst = false ∧ (offerEdge 0x0200000042#40).cmdValid = true ∧
    (offerEdge 0x0200000042#40).cmdData = 0x0200000042#40 ∧ (offerEdge 0x0200000042#40).cmdReady = true ∧
    s.edges = [stallEdge 0x0200000042#40] ++ [offerEdge 0x0200000042#40] := by decide

theorem test_witness_latency :
    let s : State := { State.reset with edges := offerEdge 0x0100000002#40 :: ([] ++ [takeEdge]) }
    s.rspq = [] ∧ s.rspDelays = [] ∧ (offerEdge 0x0100000002#40).accepts = true ∧ (∀ x ∈ ([] : List PortEdge), x.rst = false) ∧
    ([] : List PortEdge).length + 1 ≤ Config.rspLatency ∧
    Sys2Proof.core.run (([] : List PortEdge).length + 1) s = .next (nextOf (step s)) :=
  ⟨rfl, rfl, rfl, by simp, rspLatency_pos, rfl⟩

theorem test_witness_held_ready :
    let s : State := { waitingState with edges := [takeEdge, takeEdge] ++ [quietEdge] }
    s.rspq = ⟨.ok, 0x00000002#32⟩ :: [] ∧ s.rspDelays = 1 :: [] ∧ [takeEdge, takeEdge].length = 1 + 1 ∧
    (∀ x ∈ [takeEdge, takeEdge], x.rst = false ∧ x.rspReady = true) ∧ s.edges = [takeEdge, takeEdge] ++ [quietEdge] ∧
    ∃ t : State, Sys2Proof.core.run (1 + 1) s = .next t ∧ t.taken = [⟨.ok, 0x00000002#32⟩] ∧ offeringState.Consistent :=
  ⟨rfl, rfl, rfl, by decide, rfl, _, rfl, rfl, test_witness_invariant_step.2.1⟩

/-- A policy that lets `cmd_ready` be high at every second edge only. -/
def everySecondEdge (n : Nat) : PortEdge := if n % 2 = 1 then offerEdge 0x0100000002#40 else stallEdge 0x0100000002#40

theorem test_witness_fair_host :
    State.reset.phase ≠ .reserved ∧ State.reset.cmdHeld = none ∧ OffersUntilAccepted 0x0100000002#40 everySecondEdge ∧
    FairCommandPort everySecondEdge ∧ (everySecondEdge 0).accepts = false ∧ (everySecondEdge 1).accepts = true := by
  refine ⟨by decide, rfl, fun n _ => ?_, fun n _ => ⟨2 * n + 1, by omega, ?_⟩, rfl, rfl⟩
  · unfold everySecondEdge; split <;> exact ⟨rfl, rfl, rfl⟩
  · rw [everySecondEdge, if_pos (by omega)]; rfl

end Sys2Proof.Tests
end

namespace Sys2Proof.Machine

/-! ### The closed forms of the reference function (00_scope R14) -/

/-- The first byte of `prefixSum`, split off. -/
theorem prefixSum_cons (c : Byte) (cs : List Byte) (k : Nat) :
    prefixSum (c :: cs) (k + 1) = c.toNat + prefixSum cs k := by
  simp [prefixSum, Finset.sum_range_succ', Nat.add_comm]

/-- The first byte of a weighted sum, split off: it has the whole weight, and the later bytes weigh one less. -/
theorem weightedSum_cons (len : Nat) (c : Byte) (cs : List Byte) (k : Nat) :
    weightedSum len (c :: cs) (k + 1) = len * c.toNat + weightedSum (len - 1) cs k := by
  simp [weightedSum, Finset.sum_range_succ', Nat.add_comm, Nat.sub_sub]

/-- Weighing every byte by one more adds each byte once. -/
theorem weightedSum_succ_len {len k : Nat} (data : List Byte) (h : k ≤ len + 1) :
    weightedSum (len + 1) data k = weightedSum len data k + prefixSum data k := by
  unfold weightedSum prefixSum
  rw [← Finset.sum_add_distrib]
  refine Finset.sum_congr rfl fun i hi => ?_
  have hi : i < k := Finset.mem_range.1 hi
  rw [Nat.succ_sub (by omega), Nat.succ_mul]

/-- The byte at index `len` has the weight 0. -/
theorem weightedSum_at_len (len : Nat) (data : List Byte) :
    weightedSum len data (len + 1) = weightedSum len data len := by
  simp [weightedSum, Finset.sum_range_succ]

/-- One more summand `A_k` of `prefixForm`. -/
theorem prefixForm_succ (data : List Byte) (n : Nat) :
    prefixForm data (n + 1) = prefixForm data n + prefixSum data (n + 1) :=
  Finset.sum_range_succ _ _

/-- The two closed forms of `sumB` are the same number: byte `i` is counted by the `n - i` sums `A_k` with `k > i`. -/
theorem prefixForm_eq_weightedSum (data : List Byte) (n : Nat) : prefixForm data n = weightedSum n data n := by
  induction n with
  | zero => rfl
  | succ n ih => rw [prefixForm_succ, ih, weightedSum_succ_len data le_rfl, weightedSum_at_len]

/-- The loop's first sum, from any starting values, is the closed form modulo 65536. -/
theorem referenceLoop_fst (data : List Byte) (a b r : Nat) :
    (referenceLoop data a b r).1 ≡ a + prefixSum data data.length [MOD 65536] := by
  induction data generalizing a b r with
  | nil => rfl
  | cons c cs ih =>
    rw [List.length_cons, prefixSum_cons, ← Nat.add_assoc]
    exact (ih _ _ _).trans ((Nat.mod_modEq _ _).add_right _)

/-- The loop's second sum, from any starting values and any remaining count, is the closed form modulo 65536. -/
theorem referenceLoop_snd (data : List Byte) (a b r : Nat) :
    (referenceLoop data a b r).2 ≡ b + weightedSum r data data.length [MOD 65536] := by
  induction data generalizing a b r with
  | nil => rfl
  | cons c cs ih =>
    rw [List.length_cons, weightedSum_cons, ← Nat.add_assoc]
    exact (ih _ _ _).trans ((Nat.mod_modEq _ _).add_right _)

/-- The high half of `compute` is the byte sum modulo 65536. -/
theorem compute_high (data : List Byte) :
    ((compute data).extractLsb' 16 16).toNat = prefixSum data data.length % 65536 := by
  have h := referenceLoop_fst data 0 0 data.length
  rw [Nat.zero_add] at h
  rw [compute, BitVec.extractLsb'_append_eq_left, BitVec.toNat_ofNat]
  exact h

/-- The low half of `compute` is the weighted sum modulo 65536. -/
theorem compute_low (data : List Byte) :
    ((compute data).extractLsb' 0 16).toNat = weightedSum data.length data data.length % 65536 := by
  have h := referenceLoop_snd data 0 0 data.length
  rw [Nat.zero_add] at h
  rw [compute, BitVec.extractLsb'_append_eq_right, BitVec.toNat_ofNat]
  exact h

/-- Settles O47: the loop's two sums by induction on the bytes, and `prefixForm` by the equality of the closed forms. -/
theorem referenceClosedForms : Obligations.ReferenceClosedForms := fun data =>
  ⟨compute_high data, compute_low data, by rw [prefixForm_eq_weightedSum, compute_low]⟩

/-! ### The response port's latency (00_scope R8, 93_implementation_defined U3) -/

/-- An acceptance happens at an edge without reset. -/
theorem PortEdge.rst_of_accepts {e : PortEdge} (h : e.accepts = true) : e.rst = false := by
  simp only [PortEdge.accepts, Bool.and_eq_true, Bool.not_eq_true'] at h
  exact h.1.1

/-- Every effect appends exactly one response to RSPQ (R66). -/
theorem effectOf_rspq (d : Decoded) (s : State) : ∃ r : Response, (effectOf d s).rspq = s.rspq ++ [r] := by
  cases d with
  | illegal op => exact ⟨_, rfl⟩
  | command i => cases i <;> simp only [effectOf] <;> (try split) <;> exact ⟨_, rfl⟩

/-- An edge leaves the edges to come as they are. -/
theorem clockEdge_edges {e : PortEdge} {s t : State} (h : clockEdge e s = .next t) : t.edges = s.edges := by
  obtain ⟨-, rfl⟩ | ⟨-, -, -, -, rfl⟩ | ⟨-, -, -, -, rfl⟩ := clockEdge_cases h
  · simp
  · obtain ⟨-, -, hedges, -⟩ := effectOf_ports (decode e.cmdData) (s.transfer e).beginAccept
    simp [hedges]
  · simp

/-- RSPQ has a front, and `d` cycles of RSP_LATENCY are still to pass before `rsp_valid` may rise for it. -/
def State.FrontWaits (s : State) (d : Nat) : Prop :=
  s.rspq ≠ [] ∧ ∃ ds, s.rspDelays = d :: ds

/-- A waiting front is offered when no cycle is left to wait. -/
theorem State.FrontWaits.rspValid_iff {s : State} {d : Nat} (h : s.FrontWaits d) : s.rspValid = true ↔ d = 0 := by
  obtain ⟨hq, ds, hd⟩ := h
  simp [Machine.rspValid_iff, hq, hd]

/-- The edges to come play no part in the wait of the front. -/
theorem State.FrontWaits.setEdges {s : State} {d : Nat} (h : s.FrontWaits d) (es : List PortEdge) :
    (s.setEdges es).FrontWaits d := h

/-- The response port hands over no front that still waits, and takes one cycle from its wait. -/
theorem State.FrontWaits.transfer {s : State} {d : Nat} (h : s.FrontWaits (d + 1)) (e : PortEdge) :
    (s.transfer e).FrontWaits d := by
  have hv : s.rspValid = false := by simp [← Bool.not_eq_true, h.rspValid_iff]
  obtain ⟨hq, ds, hd⟩ := h
  rw [transfer_of_not (by simp [hv])]
  exact ⟨hq, cyclePasses ds, by simp [hd]⟩

/-- An acceptance appends behind a waiting front, its response and its delay. -/
theorem State.FrontWaits.accept {s : State} {d : Nat} (h : s.FrontWaits d) (c : Decoded) :
    (effectOf c s.beginAccept).FrontWaits d := by
  obtain ⟨hq, ds, hd⟩ := h
  obtain ⟨r, hr⟩ := effectOf_rspq c s.beginAccept
  obtain ⟨hdelays, -⟩ := effectOf_ports c s.beginAccept
  exact ⟨by simp [hr], ds ++ [Config.rspWait], by simp [hdelays, hd]⟩

/-- An edge without reset, whatever it accepts and whatever `rsp_ready`, takes one cycle from a waiting front. -/
theorem State.FrontWaits.clockEdge {e : PortEdge} {s t : State} {d : Nat} (hs : s.FrontWaits (d + 1))
    (he : e.rst = false) (h : clockEdge e s = .next t) : t.FrontWaits d := by
  obtain ⟨hr, -⟩ | ⟨-, -, -, -, rfl⟩ | ⟨-, -, -, -, rfl⟩ := clockEdge_cases h
  · simp [he] at hr
  · exact (hs.transfer e).accept _
  · exact hs.transfer e

/-- A run of edges without reset, no longer than the wait of the front, takes its length from that wait. -/
theorem State.FrontWaits.run {es later : List PortEdge} {s t : State} {d : Nat} (hs : s.FrontWaits d)
    (hrst : ∀ x ∈ es, x.rst = false) (hlen : es.length ≤ d) (hes : s.edges = es ++ later)
    (h : Sys2Proof.core.run es.length s = .next t) : t.FrontWaits (d - es.length) := by
  induction es generalizing s d with
  | nil => cases h; exact hs
  | cons e es ih =>
    obtain ⟨d, rfl⟩ : ∃ k, d = k + 1 := Nat.exists_eq_add_one.2 (by simp at hlen; omega)
    obtain ⟨he, hrst⟩ := List.forall_mem_cons.1 hrst
    obtain ⟨u, hstep, hrun⟩ := run_next h
    rw [step_cons hes] at hstep
    have hu : u.FrontWaits d := (hs.setEdges _).clockEdge he hstep
    have := ih hu hrst (by simpa using hlen) (clockEdge_edges hstep) hrun
    simpa using this

/-- An edge that accepts a word with no response queued makes its response the front, with all of RSP_LATENCY but this cycle to wait. -/
theorem frontWaits_of_first_accept {e : PortEdge} {s t : State} (hq : s.rspq = []) (hd : s.rspDelays = [])
    (ha : e.accepts = true) (h : clockEdge e s = .next t) : t.FrontWaits Config.rspWait := by
  have hv : s.rspValid = false := by simp [State.rspValid, hq]
  have hdelays : (s.transfer e).rspDelays = [] := by simp [transfer_of_not, hv, hd]
  obtain ⟨hr, -⟩ | ⟨-, -, -, -, rfl⟩ | ⟨-, -, -, hn, -⟩ := clockEdge_cases h
  · simp [PortEdge.rst_of_accepts ha] at hr
  · obtain ⟨r, hr⟩ := effectOf_rspq (decode e.cmdData) (s.transfer e).beginAccept
    obtain ⟨hports, -⟩ := effectOf_ports (decode e.cmdData) (s.transfer e).beginAccept
    exact ⟨by simp [hr], [], by simp [hports, hdelays]⟩
  · simp [ha] at hn

/-- Settles O55: the first edge's response is the front and waits for RSP_LATENCY less one cycle, and each later edge takes one cycle. -/
theorem responseIsOfferedAfterLatency : Obligations.ResponseIsOfferedAfterLatency := by
  refine ⟨rspLatency_pos, fun s t e es later hq hd ha hrst hlen hes h => ?_⟩
  obtain ⟨u, hstep, hrun⟩ := run_next h
  rw [step_cons hes] at hstep
  have hu : u.FrontWaits Config.rspWait := frontWaits_of_first_accept (s := s.setEdges (es ++ later)) hq hd ha hstep
  have hlen : es.length ≤ Config.rspWait := Nat.le_of_succ_le_succ hlen
  have ht := hu.run hrst hlen (clockEdge_edges hstep) hrun
  rw [ht.rspValid_iff, Config.rspLatency]
  omega

end Sys2Proof.Machine

namespace Sys2Proof.Machine

/-! ### The invariant of reachable states (10_state R25, R26) -/

/-- The clauses of `State.Consistent` on the registers: PHASE is legal, RUN exactly when bytes are expected, IDLE only with zero
registers, REM within the accepted lengths (R25, R26). -/
structure RegsLegal (sumA sumB : Half) (rem : Word) (phase : Phase) : Prop where
  phase_legal : phase ≠ .reserved
  run_iff : phase = .run ↔ 1#32 ≤ rem
  zero_of_idle : phase = .idle → sumA = 0x0000#16 ∧ sumB = 0x0000#16 ∧ rem = 0x00000000#32
  rem_le : rem ≤ 0x7FFFFFFF#32

/-- The clauses of `State.Consistent` on the response port: one delay for each queued response, below RSP_LATENCY (log 2). -/
structure State.DelaysLegal (s : State) : Prop where
  length_eq : s.rspDelays.length = s.rspq.length
  lt_latency : ∀ d ∈ s.rspDelays, d < Config.rspLatency

/-- The invariant is its two halves: the registers' and the response port's. -/
theorem State.consistent_iff {s : State} :
    s.Consistent ↔ RegsLegal s.sumA s.sumB s.rem s.phase ∧ s.DelaysLegal :=
  ⟨fun ⟨hp, hr, hi, hm, hl, hd⟩ => ⟨⟨hp, hr, hi, hm⟩, hl, hd⟩,
    fun ⟨⟨hp, hr, hi, hm⟩, hl, hd⟩ => ⟨hp, hr, hi, hm, hl, hd⟩⟩

/-- In its domain the countdown is a subtraction (R84). -/
theorem dec32_of_pos {r : Word} (h : 1#32 ≤ r) : dec32 r = r - 1#32 :=
  if_neg (by bv_omega)

/-- The registers after CLEAR and after reset are legal. -/
theorem regsLegal_zero : RegsLegal 0x0000#16 0x0000#16 0x00000000#32 .idle :=
  ⟨by decide, by decide, fun _ => ⟨rfl, rfl, rfl⟩, by decide⟩

/-- START with an accepted length leaves DONE with nothing to come, or RUN with bytes to come (R91). -/
theorem regsLegal_start {len : Word} (h : len < 0x80000000#32) :
    RegsLegal 0x0000#16 0x0000#16 len (phaseAfterStart len) := by
  unfold phaseAfterStart
  split
  · next h0 => subst h0; exact ⟨by decide, by decide, by simp, by decide⟩
  · next h0 => exact ⟨by decide, iff_of_true rfl (by bv_omega), by simp, by bv_omega⟩

/-- FEED counts REM down and leaves RUN exactly at the last byte, whatever the sums (R100). -/
theorem regsLegal_feed {r : Word} (hpos : 1#32 ≤ r) (hle : r ≤ 0x7FFFFFFF#32) (a b : Half) :
    RegsLegal a b (dec32 r) (phaseAfterFeed r) := by
  rw [dec32_of_pos hpos]
  unfold phaseAfterFeed
  split
  · next h1 => subst h1; exact ⟨by decide, by decide, by simp, by decide⟩
  · next h1 => exact ⟨by decide, iff_of_true rfl (by bv_omega), by simp, by bv_omega⟩

/-- Every command and every illegal word keeps the registers legal. -/
theorem effectOf_regsLegal (d : Decoded) {s : State} (h : RegsLegal s.sumA s.sumB s.rem s.phase) :
    RegsLegal (effectOf d s).sumA (effectOf d s).sumB (effectOf d s).rem (effectOf d s).phase := by
  cases d with
  | illegal op => exact h
  | command i =>
    cases i with
    | nop | readDigest | readStatus | readRemaining => exact h
    | clear => exact regsLegal_zero
    | start len =>
      simp only [effectOf]
      split
      · exact h
      · next hlen => exact regsLegal_start ((lenTooLarge_eq_false_iff len).1 (Bool.not_eq_true _ ▸ hlen))
    | feed c =>
      simp only [effectOf]
      split
      · next hrun => exact regsLegal_feed (h.run_iff.1 hrun) h.rem_le _ _
      · exact h

/-- The response port keeps one delay for each response, below RSP_LATENCY. -/
theorem State.DelaysLegal.transfer {s : State} (h : s.DelaysLegal) (e : PortEdge) : (s.transfer e).DelaysLegal :=
  ⟨transfer_length e h.length_eq, transfer_delays_lt e h.lt_latency⟩

/-- An acceptance appends one response, and its delay, which is below RSP_LATENCY. -/
theorem State.DelaysLegal.accept {s : State} (h : s.DelaysLegal) (d : Decoded) :
    (effectOf d s.beginAccept).DelaysLegal := by
  obtain ⟨r, hr⟩ := effectOf_rspq d s.beginAccept
  obtain ⟨hdelays, -⟩ := effectOf_ports d s.beginAccept
  constructor
  · simp [hr, hdelays, h.length_eq]
  · simpa [hdelays, or_imp, forall_and, rspWait_lt] using h.lt_latency

/-- One rising edge keeps the invariant. -/
theorem clockEdge_consistent {e : PortEdge} {s t : State} (hs : s.Consistent) (h : clockEdge e s = .next t) :
    t.Consistent := by
  obtain ⟨hregs, hdelays⟩ := State.consistent_iff.1 hs
  have hregs' : RegsLegal (s.transfer e).sumA (s.transfer e).sumB (s.transfer e).rem (s.transfer e).phase := by
    simpa using hregs
  refine State.consistent_iff.2 ?_
  obtain ⟨-, rfl⟩ | ⟨-, -, -, -, rfl⟩ | ⟨-, -, -, -, rfl⟩ := clockEdge_cases h
  · exact ⟨regsLegal_zero, rfl, by simp⟩
  · exact ⟨effectOf_regsLegal _ hregs', (hdelays.transfer e).accept _⟩
  · obtain ⟨hlen, hlt⟩ := hdelays.transfer e
    exact ⟨hregs', hlen, hlt⟩

/-- Settles O33: a step is no edge or one edge, and an edge keeps both halves of the invariant. -/
theorem stepKeepsConsistent : Obligations.StepKeepsConsistent := by
  intro s t hs h
  obtain ⟨-, rfl⟩ | ⟨e, rest, -, hedge⟩ := step_cases h
  · exact hs
  · exact clockEdge_consistent (s := s.setEdges rest) hs hedge

/-- Settles O34: the reset registers are legal and RSPQ is empty. -/
theorem resetStateIsConsistent : Obligations.ResetStateIsConsistent :=
  ⟨State.consistent_iff.2 ⟨regsLegal_zero, rfl, by simp [State.reset]⟩, rfl, rfl, rfl, rfl, rfl, rfl⟩

/-! ### What writes ERR and the sums (10_state R21, R27) -/

/-- The commands that set ERR to NONE when they succeed: START and CLEAR (R27). -/
def ClearsErr (d : Decoded) : Prop :=
  (∃ len, d = .command (.start len)) ∨ d = .command .clear

/-- An effect answers an error and records its code, succeeds as START or CLEAR and clears ERR, or succeeds as another command and
leaves ERR (R27, R128). -/
theorem effectOf_err_cases (d : Decoded) (s : State) :
    ∃ r : Response, (effectOf d s).rspq = s.rspq ++ [r] ∧
      (r.code ≠ .ok ∧ (effectOf d s).err = r.code ∨
       r.code = .ok ∧ ClearsErr d ∧ (effectOf d s).err = .ok ∨
       r.code = .ok ∧ ¬ ClearsErr d ∧ (effectOf d s).err = s.err) := by
  cases d with
  | illegal op => exact ⟨_, rfl, .inl ⟨by simp, rfl⟩⟩
  | command i =>
    cases i with
    | nop | readDigest | readStatus | readRemaining => exact ⟨_, rfl, .inr (.inr ⟨rfl, by simp [ClearsErr], rfl⟩)⟩
    | clear => exact ⟨_, rfl, .inr (.inl ⟨rfl, .inr rfl, rfl⟩)⟩
    | start len =>
      simp only [effectOf]
      split
      · exact ⟨_, rfl, .inl ⟨by simp, rfl⟩⟩
      · exact ⟨_, rfl, .inr (.inl ⟨rfl, .inl ⟨len, rfl⟩, rfl⟩)⟩
    | feed c =>
      simp only [effectOf]
      split
      · exact ⟨_, rfl, .inr (.inr ⟨rfl, by simp [ClearsErr], rfl⟩)⟩
      · exact ⟨_, rfl, .inl ⟨by simp, rfl⟩⟩

/-- Settles O25: the three cases of `effectOf_err_cases`, and the reset edge. -/
theorem errIsWrittenOnlyAsListed : Obligations.ErrIsWrittenOnlyAsListed := by
  refine ⟨fun w s t h => ?_, fun s t e hrst h => ?_, rfl, rfl, rfl, rfl⟩
  · obtain ⟨-, rfl⟩ := acceptWord_next.1 h
    obtain ⟨r, hr, ⟨hc, he⟩ | ⟨hc, hd, he⟩ | ⟨hc, hd, he⟩⟩ := effectOf_err_cases (decode w) s
    · exact ⟨r, hr, fun _ => he, fun hok => absurd hok hc, fun hok => absurd hok hc⟩
    · exact ⟨r, hr, fun hne => absurd hc hne, fun _ _ => he, fun _ hnd => absurd hd hnd⟩
    · exact ⟨r, hr, fun hne => absurd hc hne, fun _ hd' => absurd hd' hd, fun _ _ => he⟩
  · rw [clockEdge_reset hrst] at h
    cases h
    rfl

/-- A word that is not among those that write no sum decodes to START, FEED or CLEAR. -/
theorem decode_of_not_readsOnly {w : CmdWord} (h : readsOnly w = false) :
    (∃ len, decode w = .command (.start len)) ∨ (∃ c, decode w = .command (.feed c)) ∨ decode w = .command .clear := by
  unfold readsOnly at h
  split at h <;> simp_all

/-- Settles O32: an edge that resets nothing and accepts no writer of the sums leaves them. -/
theorem sumWritersAreListed : Obligations.SumWritersAreListed := by
  intro s t h hdiff
  obtain ⟨-, rfl⟩ | ⟨e, rest, hedges, hedge⟩ := step_cases h
  · simp at hdiff
  refine ⟨e, rest, hedges, ?_⟩
  obtain ⟨hrst, -⟩ | ⟨-, -, -, ha, rfl⟩ | ⟨-, -, -, -, rfl⟩ := clockEdge_cases hedge
  · exact .inl hrst
  · cases hw : readsOnly e.cmdData with
    | false => exact .inr ⟨ha, decode_of_not_readsOnly hw⟩
    | true =>
      obtain ⟨hA, hB, hR, -⟩ := effectOf_readsOnly hw ((s.setEdges rest).transfer e).beginAccept
      simp [hA, hB, hR] at hdiff
  · simp at hdiff

/-! ### START erases all history (10_state R31) -/

/-- No effect makes a legal PHASE reserved. -/
theorem effectOf_phase_ne_reserved (d : Decoded) {s : State} (h : s.phase ≠ .reserved) :
    (effectOf d s).phase ≠ .reserved := by
  cases d with
  | illegal op => exact h
  | command i =>
    cases i with
    | nop | readDigest | readStatus | readRemaining => exact h
    | clear => simp [effectOf]
    | start len =>
      simp only [effectOf]
      split
      · exact h
      · exact phaseAfterStart_ne_reserved len
    | feed c =>
      simp only [effectOf]
      split
      · exact phaseAfterFeed_ne_reserved s.rem
      · exact h

/-- Two states answer alike: their registers agree, and each has appended the same responses to the RSPQ it began with. -/
def AnswerAlike (q q' : List Response) (t t' : State) : Prop :=
  SameRegs t t' ∧ ∃ rs : List Response, t.rspq = q ++ rs ∧ t'.rspq = q' ++ rs

/-- An effect and its response depend on the five registers alone. -/
theorem effectOf_answerAlike (d : Decoded) {s s' : State} (h : SameRegs s s') :
    AnswerAlike s.rspq s'.rspq (effectOf d s) (effectOf d s') := by
  obtain ⟨hA, hB, hR, hP, hE⟩ := h
  cases d with
  | illegal op => simp [AnswerAlike, SameRegs, effectOf, *]
  | command i =>
    cases i with
    | nop | readDigest | readStatus | readRemaining | clear => simp [AnswerAlike, SameRegs, effectOf, State.status_eq, *]
    | start len =>
      simp only [effectOf]
      split <;> simp [AnswerAlike, SameRegs, State.status_eq, *]
    | feed c =>
      simp only [effectOf, hP]
      split <;> simp [AnswerAlike, SameRegs, State.status_eq, *]

/-- An accepted START leaves the same registers and the same response whatever the registers before it. -/
theorem start_answerAlike {len : Word} (h : len < 0x80000000#32) (s s' : State) :
    AnswerAlike s.rspq s'.rspq (effectOf (.command (.start len)) s) (effectOf (.command (.start len)) s') := by
  simp [AnswerAlike, SameRegs, effectOf, (lenTooLarge_eq_false_iff len).2 h, State.status_eq]

/-- The same words from states with the same registers leave the same registers and append the same responses. -/
theorem acceptAll_answerAlike (ws : List CmdWord) {q q' : List Response} {s s' : State} (hs : s.phase ≠ .reserved)
    (h : AnswerAlike q q' s s') :
    ∃ t t' : State, acceptAll ws s = .next t ∧ acceptAll ws s' = .next t' ∧ AnswerAlike q q' t t' := by
  induction ws generalizing s s' with
  | nil => exact ⟨s, s', rfl, rfl, h⟩
  | cons w ws ih =>
    obtain ⟨hregs, rs, hq, hq'⟩ := h
    have ⟨_, _, _, hphase, _⟩ := hregs
    obtain ⟨hregs₁, rs₁, hq₁, hq₁'⟩ := effectOf_answerAlike (decode w) hregs
    rw [acceptAll_cons_of_legal hs, acceptAll_cons_of_legal (hphase ▸ hs)]
    exact ih (effectOf_phase_ne_reserved _ hs) ⟨hregs₁, rs ++ rs₁, by simp [hq₁, hq], by simp [hq₁', hq']⟩

/-- Settles O51: after the START the two states have the same registers, and each later word keeps that. -/
theorem startErasesHistory : Obligations.StartErasesHistory := by
  intro s s' w len ws hs hs' hw hlen
  obtain ⟨t, t', ht, ht', hregs, rs, hq, hq'⟩ :=
    acceptAll_answerAlike ws (effectOf_phase_ne_reserved _ hs) (start_answerAlike hlen s s')
  rw [← hw] at ht ht'
  exact ⟨t, t', rs, by rw [acceptAll_cons_of_legal hs, ht], by rw [acceptAll_cons_of_legal hs', ht'], hregs, hq, hq'⟩

/-! ### PHASE = 0b11, STATUS and the outputs (10_state R26, R28, R32) -/

/-- An edge without reset is refused where PHASE is reserved. -/
theorem clockEdge_of_reserved {e : PortEdge} {s : State} (hr : e.rst = false) (hp : s.phase = .reserved) :
    clockEdge e s = .refused .reservedPhase := by
  simp [clockEdge, hr, hp]

/-- Settles O42: commands and words are guarded steps, and the guard stands at every edge without reset. -/
theorem reservedPhaseIsRefused : Obligations.ReservedPhaseIsRefused := by
  refine fun s hp => ⟨fun i => ?_, fun w => ?_, fun e rest hedges hr => ?_⟩
  · rw [exec_eq_command, command_of_reserved hp]
  · rw [acceptWord_eq_command, command_of_reserved hp]
  · rw [step_cons hedges]
    exact clockEdge_of_reserved hr hp

/-- Settles O44: the fields of the STATUS word, for every ERR and PHASE. -/
theorem statusLayout : Obligations.StatusLayout :=
  ⟨fun s => ⟨rfl, statusWord_fields s.err s.phase⟩, by decide, rfl, rfl, rfl, rfl⟩

/-- Settles O46: the outputs read SUMA, SUMB and PHASE, which a word that writes no sum leaves. -/
theorem outputsAreViews : Obligations.OutputsAreViews := by
  refine fun w s t e h => ⟨rfl, rfl, fun hw => ?_⟩
  obtain ⟨-, rfl⟩ := acceptWord_next.1 h
  obtain ⟨hA, hB, -, hP⟩ := effectOf_readsOnly hw s
  simp [State.outputs, State.digestO, State.phaseO, hA, hB, hP]

end Sys2Proof.Machine

namespace Sys2Proof.Machine

/-! ### The commands without a side effect (20_memory R49) -/

/-- NOP and the three reads: the commands of R49 that only respond. -/
def RespondsOnly (i : Instr) : Prop := i = .nop ∨ i = .readDigest ∨ i = .readStatus ∨ i = .readRemaining

/-- Such a command's response does not depend on RSPQ: whatever the queue holds, the same response is appended to it and the rest of
the state stays. -/
theorem effectOf_respondsOnly {i : Instr} (h : RespondsOnly i) (s : State) :
    ∃ r : Response, ∀ q : List Response, effectOf (.command i) { s with rspq := q } = { s with rspq := q ++ [r] } := by
  obtain rfl | rfl | rfl | rfl := h
  case inl => exact ⟨⟨.ok, 0x00000000#32⟩, fun _ => rfl⟩
  case inr.inl => exact ⟨⟨.ok, pack s.sumA s.sumB⟩, fun _ => rfl⟩
  case inr.inr.inl => exact ⟨⟨.ok, s.status⟩, fun _ => rfl⟩
  case inr.inr.inr => exact ⟨⟨.ok, s.rem⟩, fun _ => rfl⟩

/-- Settles O29: the response of `effectOf_respondsOnly`, taken at the queue before the command and at the queue it leaves. -/
theorem readsChangeOnlyTheQueue : Obligations.ReadsChangeOnlyTheQueue := by
  intro i hi s t h
  obtain ⟨hlegal, rfl⟩ := exec_next.1 h
  obtain ⟨r, hr⟩ := effectOf_respondsOnly hi s
  have hfirst : effectOf (.command i) s = { s with rspq := s.rspq ++ [r] } := hr s.rspq
  rw [hfirst]
  exact ⟨r, rfl, exec_next.2 ⟨hlegal, (hr (s.rspq ++ [r])).symm⟩⟩

end Sys2Proof.Machine

namespace Sys2Proof

/-! ### The encoder against the decoder (30_encoding R61 to R65, R70) -/

/-- A mask that keeps the opcode masks the operand alone. -/
theorem and_operandMask (w : CmdWord) (m : Word) :
    w &&& cmdWord 0xFF#8 m = cmdWord (opcodeOf w) (operandOf w &&& m) := by
  have hop : opcodeOf w &&& 0xFF#8 = opcodeOf w := BitVec.and_allOnes
  calc w &&& cmdWord 0xFF#8 m
      = cmdWord (opcodeOf w) (operandOf w) &&& cmdWord 0xFF#8 m := by rw [cmdWord_fields]
    _ = cmdWord (opcodeOf w &&& 0xFF#8) (operandOf w &&& m) := BitVec.and_append
    _ = cmdWord (opcodeOf w) (operandOf w &&& m) := by rw [hop]

/-- The operand's low byte, as a mask and as a field (R63). -/
theorem and_byteMask (x : Word) : x &&& 0x000000FF#32 = (operandByte x).setWidth 32 := by
  apply BitVec.eq_of_toNat_eq
  have hmask : x.toNat &&& 255 = x.toNat % 2 ^ 8 := Nat.and_two_pow_sub_one_eq_mod _ 8
  simp [operandByte, hmask]
  omega

/-- The low byte of a word is that of its operand (R61, R63). -/
theorem operandByte_operandOf (w : CmdWord) : operandByte (operandOf w) = w.extractLsb' 0 8 := by
  apply BitVec.eq_of_toNat_eq
  simp [operandByte, operandOf]

/-- START reads every bit (R64). -/
theorem and_usedBits_start (w : CmdWord) (len : Word) : w &&& usedBits (.start len) = w :=
  BitVec.and_allOnes

/-- FEED reads the opcode and the low byte (R64). -/
theorem and_usedBits_feed (w : CmdWord) (c : Byte) :
    w &&& usedBits (.feed c) = cmdWord (opcodeOf w) ((operandByte (operandOf w)).setWidth 32) := by
  rw [← and_byteMask]
  exact and_operandMask w 0x000000FF#32

/-- Every command reads the whole opcode (R62). -/
@[simp] theorem opcodeOf_and_usedBits (w : CmdWord) (i : Instr) : opcodeOf (w &&& usedBits i) = opcodeOf w := by
  cases i with
  | nop | readDigest | readStatus | readRemaining | clear => exact (congrArg opcodeOf (masked_eq w)).trans (by simp)
  | start len => rw [and_usedBits_start]
  | feed c => simp [and_usedBits_feed]

/-- The encoder is inverted by the decoder. -/
@[simp] theorem decode_encode (i : Instr) : decode (encode i) = .command i := by
  cases i with
  | nop | readDigest | readStatus | readRemaining | clear => decide
  | start len => simp [encode, decode_start]
  | feed c => simp [encode, decode_feed]

/-- The bits a word's command reads are that command's own word. -/
theorem and_usedBits_of_decode {w : CmdWord} {i : Instr} (h : decode w = .command i) : w &&& usedBits i = encode i := by
  obtain ⟨hop, hd⟩ | ⟨hop, hd⟩ | ⟨hop, hd⟩ | ⟨hop, hd⟩ | ⟨hop, hd⟩ | ⟨hop, hd⟩ | ⟨hop, hd⟩ | ⟨-, hd⟩ := decode_cases w <;>
    cases hd.symm.trans h
  · exact (masked_eq_iff w _).2 hop
  · rw [and_usedBits_start, encode, ← hop, cmdWord_fields]
  · rw [and_usedBits_feed, hop, encode]
  all_goals exact (masked_eq_iff w _).2 hop

/-- A word whose used bits are a command's word decodes to that command, whatever its other bits (R64). -/
theorem decode_of_and_usedBits {w : CmdWord} {i : Instr} (h : w &&& usedBits i = encode i) : decode w = .command i := by
  have hop : opcodeOf w = opcodeOf (encode i) := by rw [← h, opcodeOf_and_usedBits]
  cases i with
  | nop => exact decode_nop hop
  | readDigest => exact decode_readDigest hop
  | readStatus => exact decode_readStatus hop
  | readRemaining => exact decode_readRemaining hop
  | clear => exact decode_clear hop
  | start len =>
    rw [and_usedBits_start] at h
    rw [h, decode_encode]
  | feed c =>
    have hc : operandByte (operandOf w) = c := by
      simpa [and_usedBits_feed, encode] using congrArg (fun x => operandByte (operandOf x)) h
    rw [decode_feed (by simpa [encode] using hop), hc]

/-- Settles O8: the decoder inverts the encoder, and on any word it looks at the used bits alone. -/
theorem decodeAndEncodeAgree : Obligations.DecodeAndEncodeAgree :=
  ⟨decode_encode, fun _ _ => ⟨and_usedBits_of_decode, decode_of_and_usedBits⟩⟩

/-- Settles O6: each row's match names its opcode, and the decoder answers by opcode. -/
theorem opcodeMapSelectsCommands : Obligations.OpcodeMapSelectsCommands := by
  intro w
  have hop (op : BitVec 8) (h : w &&& 0xFF00000000#40 = cmdWord op 0x00000000#32) : opcodeOf w = op :=
    (masked_eq_iff w op).1 h
  exact ⟨fun h => decode_nop (hop _ h), fun h => decode_start (hop _ h),
    fun h => operandByte_operandOf w ▸ decode_feed (hop _ h), fun h => decode_readDigest (hop _ h),
    fun h => decode_readStatus (hop _ h), fun h => decode_readRemaining (hop _ h), fun h => decode_clear (hop _ h),
    decode_illegal⟩

/-- A word has the opcode of the command it decodes to. -/
theorem opcodeOf_of_decode {w : CmdWord} {i : Instr} (h : decode w = .command i) : opcodeOf w = opcodeOf (encode i) := by
  rw [← and_usedBits_of_decode h, opcodeOf_and_usedBits]

/-- Every command's own word selects the row of its mnemonic and no other. -/
theorem encode_selectsOwnRow (i : Instr) : Laws.SelectsOwnRow.Statement i := by
  cases i with
  | nop => exact Laws.SelectsOwnRow.nop
  | start len => exact Laws.SelectsOwnRow.start len
  | feed c => exact Laws.SelectsOwnRow.feed c
  | readDigest => exact Laws.SelectsOwnRow.readDigest
  | readStatus => exact Laws.SelectsOwnRow.readStatus
  | readRemaining => exact Laws.SelectsOwnRow.readRemaining
  | clear => exact Laws.SelectsOwnRow.clear

/-- A word selects the row of the command it decodes to and no other. -/
theorem rows_of_decode {w : CmdWord} {i : Instr} (h : decode w = .command i) :
    ∃ r, opcodeTable.filter (fun r => rowSelects r w) = [r] ∧ r.mnemonic = mnemonicOf i := by
  rw [rows_by_opcode, opcodeOf_of_decode h, ← rows_by_opcode]
  exact List.map_eq_singleton_iff.1 (encode_selectsOwnRow i)

/-- No row names an opcode of 7 or more. -/
theorem rows_of_illegal {w : CmdWord} (h : 7 ≤ (opcodeOf w).toNat) :
    opcodeTable.filter (fun r => rowSelects r w) = [] := by
  refine List.filter_eq_nil_iff.2 fun r hr hsel => ?_
  have hrows : ∀ r ∈ opcodeTable, r.maskBits = 0xFF00000000#40 ∧ (opcodeOf r.matchBits).toNat < 7 := by decide
  obtain ⟨hmask, hlt⟩ := hrows r hr
  have hmatch : w &&& r.maskBits = r.matchBits := by simpa [rowSelects] using hsel
  have hop : opcodeOf w = opcodeOf r.matchBits := by rw [← hmatch, hmask, masked_eq, opcodeOf_cmdWord]
  exact absurd hlt (by rw [← hop]; omega)

/-- An opcode below 7 is a command's. -/
theorem decode_command_of_lt {w : CmdWord} (h : (opcodeOf w).toNat < 7) : ∃ i, decode w = .command i := by
  obtain ⟨-, hd⟩ | ⟨-, hd⟩ | ⟨-, hd⟩ | ⟨-, hd⟩ | ⟨-, hd⟩ | ⟨-, hd⟩ | ⟨-, hd⟩ | ⟨hge, -⟩ := decode_cases w
  on_goal 8 => omega
  all_goals exact ⟨_, hd⟩

/-- Settles O7: a word is a command's, with that command's row and opcode, or its opcode is in no row. -/
theorem everyWordSelectsExactlyOne : Obligations.EveryWordSelectsExactlyOne := by
  intro w
  obtain hlt | hge := Nat.lt_or_ge (opcodeOf w).toNat 7
  · obtain ⟨i, hd⟩ := decode_command_of_lt hlt
    obtain ⟨r, hrow, hname⟩ := rows_of_decode hd
    exact .inl ⟨i, r, hd, hrow, hname, hlt⟩
  · exact .inr ⟨opcodeOf w, decode_illegal hge, rows_of_illegal hge, hge⟩

/-- Two words with the same opcode, other than START's, and for FEED the same byte, decode alike (R64). -/
theorem decode_congr {w w' : CmdWord} (hop : opcodeOf w = opcodeOf w') (hstart : opcodeOf w ≠ 0x01#8)
    (hfeed : opcodeOf w = 0x02#8 → operandByte (operandOf w) = operandByte (operandOf w')) : decode w = decode w' := by
  unfold decode
  rw [← hop, if_neg hstart, if_neg hstart]
  by_cases h2 : opcodeOf w = 0x02#8
  · rw [hfeed h2]
  · rw [if_neg h2, if_neg h2]

end Sys2Proof

namespace Sys2Proof.Machine

/-- Settles O9: the words decode alike, and an acceptance is the effect of what a word decodes to. -/
theorem ignoredBitsHaveNoEffect : Obligations.IgnoredBitsHaveNoEffect := by
  intro w w' hop hstart hfeed
  have hd : decode w = decode w' :=
    decode_congr hop hstart fun h2 => by simpa [operandByte_operandOf] using hfeed h2
  exact ⟨hd, fun s => by rw [acceptWord_eq_command, acceptWord_eq_command, hd]⟩

end Sys2Proof.Machine

namespace Sys2Proof

/-- Settles O10: each of the ten words is decoded. -/
theorem writtenOutWordsDecode : Obligations.WrittenOutWordsDecode := by
  unfold Obligations.WrittenOutWordsDecode
  decide

/-- The bound of a well-formed byte (R72). -/
theorem byteOk_iff {b : Nat} : byteOk b = true ↔ b < 256 := by
  simp [byteOk]
  omega

/-- A byte line encodes its number as the whole operand (R72). -/
theorem encode_feed_ofNat {b : Nat} (h : b < 256) : encode (.feed (BitVec.ofNat 8 b)) = 0x02#8 ++ BitVec.ofNat 32 b :=
  congrArg (cmdWord 0x02#8) (BitVec.setWidth_ofNat_of_le_of_lt (by decide) h)

/-- Settles O11: the numbers of a well-formed line fit their operands, and the pseudo-instructions are lists of such lines. -/
theorem assemblerLinesEncode : Obligations.AssemblerLinesEncode := by
  refine ⟨fun n h => ?_, fun b h => ?_, by decide, fun w h => ?_, fun bs => ?_, fun bs => ?_⟩
  · have hn : n < 2 ^ 32 := of_decide_eq_true h
    exact ⟨rfl, BitVec.ofNat 32 n, Nat.mod_eq_of_lt hn, by simp [asmWords]⟩
  · have hb : b < 256 := byteOk_iff.1 h
    exact ⟨by rw [asmWords, encode_feed_ofNat hb], BitVec.ofNat 8 b, Nat.mod_eq_of_lt hb, by simp [asmWords]⟩
  · have hw : w < 2 ^ 40 := of_decide_eq_true h
    exact congrArg (fun n => [n]) (Nat.mod_eq_of_lt hw)
  · exact List.map_eq_flatMap
  · simp [asmWords]

end Sys2Proof

namespace Sys2Proof.Machine

/-! ### Lists of accepted words (30_encoding R66) -/

/-- Accepting a list of words, inverted at its first word. -/
theorem acceptAll_cons_next {w : CmdWord} {ws : List CmdWord} {s t : State} (h : acceptAll (w :: ws) s = .next t) :
    s.phase ≠ .reserved ∧ acceptAll ws (effectOf (decode w) s) = .next t := by
  by_cases hp : s.phase = .reserved
  · simp [acceptAll, acceptWord_eq_command, command_of_reserved hp] at h
  · exact ⟨hp, acceptAll_cons_of_legal hp w ws ▸ h⟩

/-- Words accepted after others go on from the state those leave. -/
theorem acceptAll_append {ws : List CmdWord} {s t : State} (h : acceptAll ws s = .next t) (vs : List CmdWord) :
    acceptAll (ws ++ vs) s = acceptAll vs t := by
  induction ws generalizing s with
  | nil => cases h; rfl
  | cons w ws ih =>
    obtain ⟨hp, h⟩ := acceptAll_cons_next h
    rw [List.cons_append, acceptAll_cons_of_legal hp, ih h]

/-- Settles O27, by induction on the words: the first word appends its response and the others append theirs behind it. -/
theorem everyWordGivesOneResponse : Obligations.EveryWordGivesOneResponse := by
  intro ws
  induction ws with
  | nil =>
    intro s t h
    cases h
    refine ⟨[], rfl, by simp, fun k u _ hu => ?_⟩
    rw [List.take_nil] at hu
    cases hu
    simp
  | cons w ws ih =>
    intro s t h
    obtain ⟨hp, h⟩ := acceptAll_cons_next h
    obtain ⟨r, hr⟩ := effectOf_rspq (decode w) s
    obtain ⟨rs, hlen, hq, hprefix⟩ := ih _ _ h
    refine ⟨r :: rs, by simp [hlen], by simp [hq, hr], fun k u hk hu => ?_⟩
    cases k with
    | zero => cases hu; simp
    | succ k =>
      obtain ⟨-, hu⟩ := acceptAll_cons_next hu
      simp [hprefix k u (Nat.le_of_succ_le_succ hk) hu, hr]

/-! ### Response words and the response port (30_encoding R60, R67) -/

/-- The fields of a response word (R67). -/
theorem Response.bits_fields (r : Response) : r.bits.extractLsb' 32 2 = r.code.bits ∧ r.bits.extractLsb' 0 32 = r.data :=
  ⟨BitVec.extractLsb'_append_eq_left, BitVec.extractLsb'_append_eq_right⟩

/-- While `rsp_valid` is 1, `rsp_data` carries the front of RSPQ. -/
theorem outputs_rspData {s : State} {r : Response} {q : List Response} (hq : s.rspq = r :: q) (hv : s.rspValid = true)
    (e : PortEdge) : (s.outputs e).rspData = some r.bits := by
  simp [State.outputs, hv, hq]

/-- Settles O45: the two fields of the word, the four codes, and the front of RSPQ on `rsp_data`. -/
theorem responseWordLayout : Obligations.ResponseWordLayout :=
  ⟨Response.bits_fields, rfl, rfl, rfl, rfl, fun _ e _ _ hq hv => outputs_rspData hq hv e⟩

/-- The host's record after an edge is what the response port leaves: no reset and no acceptance adds to it. -/
theorem clockEdge_taken {e : PortEdge} {s t : State} (h : clockEdge e s = .next t) : t.taken = (s.transfer e).taken := by
  obtain ⟨-, rfl⟩ | ⟨-, -, -, -, rfl⟩ | ⟨-, -, -, -, rfl⟩ := clockEdge_cases h
  · rfl
  · obtain ⟨-, -, -, htaken⟩ := effectOf_ports (decode e.cmdData) (s.transfer e).beginAccept
    exact htaken
  · rfl

/-- An edge without reset appends to what the response port leaves of RSPQ one response if it accepts a word, and none if not. -/
theorem clockEdge_rspq {e : PortEdge} {s t : State} (hrst : e.rst = false) (h : clockEdge e s = .next t) :
    ∃ rs : List Response, t.rspq = (s.transfer e).rspq ++ rs ∧ rs.length = if e.accepts then 1 else 0 := by
  obtain ⟨hr, -⟩ | ⟨-, -, -, ha, rfl⟩ | ⟨-, -, -, ha, rfl⟩ := clockEdge_cases h
  · simp [hrst] at hr
  · obtain ⟨r, hr⟩ := effectOf_rspq (decode e.cmdData) (s.transfer e).beginAccept
    exact ⟨[r], hr, by simp [ha]⟩
  · exact ⟨[], by simp, by simp [ha]⟩

/-- Settles O39: the transfer decides `taken` and the front of RSPQ, and the rest of the edge only appends to RSPQ. -/
theorem responseTransfer : Obligations.ResponseTransfer := by
  intro s t e rest hedges h
  rw [step_cons hedges] at h
  have htaken := clockEdge_taken h
  refine ⟨fun r q hq hv hready => ?_, fun hnot => ?_⟩
  · have hmoves := transfer_of_valid_ready (s := s.setEdges rest) hv hready
    rw [hmoves] at htaken
    refine ⟨outputs_rspData hq hv e, by simpa [hq] using htaken, fun hrst => ?_⟩
    simpa [hmoves, hq] using clockEdge_rspq hrst h
  · have hoff : ((s.setEdges rest).rspValid && e.rspReady) = false := by simpa [Bool.and_eq_false_iff, -Bool.and_eq_false_imp] using hnot
    rw [transfer_of_not hoff] at htaken
    refine ⟨htaken, fun hrst => ?_⟩
    simpa [transfer_of_not hoff] using clockEdge_rspq hrst h

/-- A front that waits for no cycle and is not taken waits for none after the edge. -/
theorem State.FrontWaits.transfer_of_not_ready {s : State} (h : s.FrontWaits 0) {e : PortEdge}
    (hready : e.rspReady = false) : (s.transfer e).FrontWaits 0 := by
  obtain ⟨hq, ds, hd⟩ := h
  rw [transfer_of_not (by simp [hready])]
  exact ⟨hq, cyclePasses ds, by simp [hd]⟩

/-- An edge without reset at which the host is not ready leaves a valid offer valid. -/
theorem clockEdge_keeps_rspValid {e : PortEdge} {s t : State} (hrst : e.rst = false) (hready : e.rspReady = false)
    (hv : s.rspValid = true) (h : clockEdge e s = .next t) : t.rspValid = true := by
  have hfront : (s.transfer e).FrontWaits 0 := State.FrontWaits.transfer_of_not_ready (rspValid_iff.1 hv) hready
  obtain ⟨hr, -⟩ | ⟨-, -, -, -, rfl⟩ | ⟨-, -, -, -, rfl⟩ := clockEdge_cases h
  · simp [hrst] at hr
  · exact (hfront.accept _).rspValid_iff.2 rfl
  · exact rspValid_iff.2 hfront

/-- Settles O40: the offer stays valid, and RSPQ only grows behind its front (`responseTransfer`). -/
theorem offeredResponseStaysStable : Obligations.OfferedResponseStaysStable := by
  refine ⟨fun s t e e' rest hedges h hrst hv hready => ?_, fun s hq => by simp [State.rspValid, hq]⟩
  obtain ⟨r, q, hq⟩ := List.exists_cons_of_ne_nil (rspValid_ne_nil hv)
  obtain ⟨-, hkeeps⟩ := responseTransfer s t e rest hedges h
  obtain ⟨-, hgrows⟩ := hkeeps (.inr hready)
  obtain ⟨rs, htq, -⟩ := hgrows hrst
  have htv : t.rspValid = true := clockEdge_keeps_rspValid (s := s.setEdges rest) hrst hready hv (by rwa [step_cons hedges] at h)
  have htq : t.rspq = r :: (q ++ rs) := by simp [htq, hq]
  exact ⟨htv, by rw [outputs_rspData hq hv, outputs_rspData htq htv]⟩

/-! ### The command port (30_encoding R60; 70_reset_and_hazards R147, R151) -/

/-- An edge without reset at which the host breaks its duty has no move. -/
theorem clockEdge_of_not_held {e : PortEdge} {s : State} (hrst : e.rst = false) (hp : s.phase ≠ .reserved)
    (hh : s.commandHeld e = false) : clockEdge e s = .refused .commandNotHeld := by
  simp [clockEdge, hrst, hp, hh]

/-- An edge without reset at which the host keeps its duty has a move. -/
theorem clockEdge_answers {e : PortEdge} {s : State} (hrst : e.rst = false) (hp : s.phase ≠ .reserved)
    (hh : s.commandHeld e = true) : ∃ t, clockEdge e s = .next t := by
  rw [clockEdge_of_legal hrst hp hh]
  cases ha : e.accepts with
  | false => exact ⟨_, commandPort_stalls ha⟩
  | true => exact ⟨_, commandPort_accepts ha (by simpa using hp)⟩

/-- Settles O41: the edge is refused exactly when `commandHeld` fails, and with a word held that is the host not offering it. -/
theorem commandNotHeldIsRefused : Obligations.CommandNotHeldIsRefused := by
  intro s e rest w hedges hrst hp hheld
  rw [step_cons hedges]
  have hduty : (s.setEdges rest).commandHeld e = (e.cmdValid && e.cmdData == w) := by simp [State.commandHeld, hheld]
  cases hh : (s.setEdges rest).commandHeld e with
  | false =>
    rw [hduty] at hh
    exact iff_of_true (clockEdge_of_not_held hrst hp (hduty.trans hh)) (by simpa [-not_and, imp_iff_not_or] using hh)
  | true =>
    obtain ⟨t, ht⟩ := clockEdge_answers (s := s.setEdges rest) hrst hp hh
    rw [hduty] at hh
    simp only [Bool.and_eq_true, beq_iff_eq] at hh
    simp [ht, hh]

/-- Settles O38: such an edge is the transfer, and then the word held anew. -/
theorem stalledEdgeAcceptsNothing : Obligations.StalledEdgeAcceptsNothing := by
  intro s e rest hedges hrst ha hp hduty
  rw [step_cons hedges, clockEdge_of_legal (s := s.setEdges rest) hrst hp (commandHeld_iff.2 hduty), commandPort_stalls ha]
  exact ⟨_, rfl, by simp [SameRegs], by simp, by simp, transfer_keeps_responses (s.setEdges rest) e⟩

/-- Accepting a command's word is running the command. -/
theorem acceptWord_of_command {w : CmdWord} {i : Instr} (h : decode w = .command i) (s : State) :
    acceptWord w s = exec i s := by
  rw [acceptWord_eq_command, exec_eq_command, h]

/-- An edge without reset that offers a word at `cmd_ready`, the duty kept, accepts it on the state the response port leaves. -/
theorem step_accepts {s : State} {e : PortEdge} {rest : List PortEdge} (hedges : s.edges = e :: rest)
    (hrst : e.rst = false) (hvalid : e.cmdValid = true) (hready : e.cmdReady = true) (hp : s.phase ≠ .reserved)
    (hheld : s.cmdHeld = none ∨ s.cmdHeld = some e.cmdData) :
    step s = acceptWord e.cmdData ((s.setEdges rest).transfer e).beginAccept := by
  have hduty : (s.setEdges rest).commandHeld e = true := commandHeld_iff.2 (hheld.imp_right fun h => ⟨hvalid, h⟩)
  rw [step_cons hedges, clockEdge_of_legal (s := s.setEdges rest) hrst hp hduty, commandPort, if_pos (by simp [PortEdge.accepts, *])]

/-- A number that stands for a command is that command's 40-bit word (R9, R61; log 12). -/
theorem decode_of_decodeTableWord {w : Nat} {i : Instr} (h : decodeTableWord 40 w = some i) :
    decode (BitVec.ofNat 40 (w % 2 ^ 40)) = .command i := by
  unfold decodeTableWord at h
  split at h
  · next j hj => cases h; exact hj
  · cases h

/-- The host's issuing of a word shows in no state that has begun to accept it: the edge is gone and no word is held. -/
theorem withOffer_beginAccept (s : State) (w : CmdWord) :
    (((s.withOffer w).setEdges s.edges).transfer (offerEdge w)).beginAccept = (s.transfer (offerEdge w)).beginAccept := by
  rw [transfer_of_not (by simp [offerEdge]), transfer_of_not (by simp [offerEdge])]
  rfl

/-- Settles O37: `step_accepts`, with what the word decodes to. -/
theorem stepRunsAcceptedCommand : Obligations.StepRunsAcceptedCommand := by
  refine ⟨fun s e rest hedges hrst hvalid hready hp hheld => ⟨fun i hi => ?_, fun op hop => ?_⟩, fun s w i hp hi => ?_⟩
  · rw [step_accepts hedges hrst hvalid hready hp hheld, acceptWord_of_command hi]
  · rw [step_accepts hedges hrst hvalid hready hp hheld, acceptWord_of_legal (by simpa using hp), hop]
    rfl
  · have hmod : BitVec.ofNat 40 (w % 2 ^ 40) = BitVec.ofNat 40 w := BitVec.eq_of_toNat_eq (by simp)
    have hw : decode (BitVec.ofNat 40 w) = .command i := hmod ▸ decode_of_decodeTableWord hi
    rw [State.withFetchWord, hmod, step_accepts (State.withOffer_edges s _) rfl rfl rfl hp (.inl rfl),
      withOffer_beginAccept]
    exact acceptWord_of_command hw _

/-- Two states that the host cannot tell apart by their registers or by the responses taken and still queued. -/
def SameResponses (s t : State) : Prop :=
  SameRegs s t ∧ s.taken ++ s.rspq = t.taken ++ t.rspq

/-- Of three states in a row like that, the first and the last are so too. -/
theorem SameResponses.trans {s t u : State} (h : SameResponses s t) (h' : SameResponses t u) : SameResponses s u := by
  obtain ⟨⟨hA, hB, hR, hP, hE⟩, hq⟩ := h
  obtain ⟨⟨hA', hB', hR', hP', hE'⟩, hq'⟩ := h'
  exact ⟨⟨hA.trans hA', hB.trans hB', hR.trans hR', hP.trans hP', hE.trans hE'⟩, hq.trans hq'⟩

/-- The same word, accepted by both, keeps them so. -/
theorem SameResponses.accept {s t : State} (h : SameResponses s t) (d : Decoded) :
    SameResponses (effectOf d s) (effectOf d t) := by
  obtain ⟨hregs, hq⟩ := h
  obtain ⟨hregs', rs, hsq, htq⟩ := effectOf_answerAlike d hregs
  obtain ⟨-, -, -, hs⟩ := effectOf_ports d s
  obtain ⟨-, -, -, ht⟩ := effectOf_ports d t
  exact ⟨hregs', by rw [hs, ht, hsq, htq, ← List.append_assoc, ← List.append_assoc, hq]⟩

/-- What an edge does before it accepts a word shows in no register and loses no response. -/
theorem beginAccept_sameResponses (s : State) (e : PortEdge) (rest : List PortEdge) :
    SameResponses ((s.setEdges rest).transfer e).beginAccept s :=
  ⟨by simp [SameRegs], transfer_keeps_responses (s.setEdges rest) e⟩

/-- Settles O54, by induction on the edges that stall: each keeps the registers and the responses (`stalledEdgeAcceptsNothing`), and
the last edge accepts. -/
theorem heldCommandIsAcceptedWhenReady : Obligations.HeldCommandIsAcceptedWhenReady := by
  intro s w stalls e hp hheld hstalls hrst hvalid hw hready hedges
  subst hw
  suffices h : ∃ t, Sys2Proof.core.run (stalls.length + 1) s = .next t ∧ t.cmdHeld = none ∧
      SameResponses t (effectOf (decode e.cmdData) s) by
    obtain ⟨t, hrun, hcmd, hregs, hq⟩ := h
    exact ⟨t, _, hrun, acceptWord_of_legal hp _, hregs, hcmd, hq⟩
  induction stalls generalizing s with
  | nil =>
    have hstep := step_accepts hedges hrst hvalid hready hp hheld
    rw [acceptWord_of_legal (by simpa using hp)] at hstep
    obtain ⟨-, hcmd, -⟩ := effectOf_ports (decode e.cmdData) ((s.setEdges []).transfer e).beginAccept
    exact ⟨_, run_of_next 0 hstep, hcmd, (beginAccept_sameResponses s e []).accept _⟩
  | cons x stalls ih =>
    obtain ⟨⟨hxrst, hxvalid, hxw, hxready⟩, hstalls⟩ := List.forall_mem_cons.1 hstalls
    have hduty : s.cmdHeld = none ∨ x.cmdValid = true ∧ s.cmdHeld = some x.cmdData :=
      hheld.imp_right fun h => ⟨hxvalid, hxw ▸ h⟩
    obtain ⟨s', hstep, ⟨hA, hB, hR, hP, hE⟩, hedges', hheld', hq⟩ :=
      stalledEdgeAcceptsNothing s x (stalls ++ [e]) hedges hxrst (by simp [PortEdge.accepts, hxready]) hp hduty
    have hsame : SameResponses s' s := ⟨⟨hA.symm, hB.symm, hR.symm, hP.symm, hE.symm⟩, hq⟩
    obtain ⟨t, hrun, hcmd, ht⟩ := ih s' (hP ▸ hp) hedges' (.inr (by simp [hheld', hxvalid, hxw])) hstalls
    exact ⟨t, (run_of_next _ hstep).trans hrun, hcmd, ht.trans (hsame.accept _)⟩

end Sys2Proof.Machine

namespace Sys2Proof.Machine

/-! ### A computation in progress (00_scope R13, 42_accumulate R100) -/

/-- The adder is addition modulo 65536 (R80). -/
theorem add16_toNat (a b : Half) : (add16 a b).toNat = (a.toNat + b.toNat) % 65536 := by
  simp [add16]

/-- The weight product is multiplication modulo 65536 (R81). -/
theorem wmul_toNat (w : Half) (c : Byte) : (wmul w c).toNat = w.toNat * c.toNat % 65536 := by
  have hw := w.isLt
  have hc := c.isLt
  have hw' : w.toNat % 16777216 = w.toNat := Nat.mod_eq_of_lt (by omega)
  have hc' : c.toNat % 16777216 = c.toNat := Nat.mod_eq_of_lt (by omega)
  simp [wmul, hw', hc', Nat.mod_mod_of_dvd]

/-- SUMB's new value in RUN: the 16-bit weight serves for REM itself (R82). -/
theorem add16_wmul_toNat (b : Half) (r : Word) (c : Byte) :
    (add16 b (wmul (weightOf r) c)).toNat = (b.toNat + r.toNat * c.toNat) % 65536 := by
  simp [add16_toNat, wmul_toNat, weightOf_toNat]

/-- `n` bytes of a computation are still to come, and the sums so far are `a` and `b`. -/
structure State.Computing (s : State) (n a b : Nat) : Prop where
  rem_eq : s.rem.toNat = n
  sumA_eq : s.sumA.toNat = a
  sumB_eq : s.sumB.toNat = b
  phase_eq : s.phase = if n = 0 then .done else .run

/-- A computation stands at a legal PHASE. -/
theorem State.Computing.legal {s : State} {n a b : Nat} (h : s.Computing n a b) : s.phase ≠ .reserved := by
  rw [h.phase_eq]
  split <;> decide

/-- An accepted START begins a computation with zero sums (R91). -/
theorem computing_start {len : Word} (h : len < 0x80000000#32) (s : State) :
    (effectOf (.command (.start len)) s).Computing len.toNat 0 0 := by
  rw [effectOf, if_neg (by simp [lenTooLarge_eq_false_iff, h])]
  exact ⟨rfl, rfl, rfl, by simp [phaseAfterStart, BitVec.toNat_eq]⟩

/-- A FEED of a computation is one pass of the reference loop (R13, R100). -/
theorem State.Computing.feed {s : State} {n a b : Nat} (h : s.Computing (n + 1) a b) (c : Byte) :
    (effectOf (.command (.feed c)) s).Computing n ((a + c.toNat) % 65536) ((b + (n + 1) * c.toNat) % 65536) := by
  obtain ⟨hrem, rfl, rfl, hphase⟩ := h
  have hpos : 1#32 ≤ s.rem := by bv_omega
  have hlast : s.rem = 1#32 ↔ n = 0 := by bv_omega
  have hrun : s.phase = .run := by simpa using hphase
  rw [effectOf, if_pos hrun]
  constructor
  · have : (dec32 s.rem).toNat = n := by rw [dec32_of_pos hpos]; bv_omega
    simpa using this
  · simp [add16_toNat]
  · simp [add16_wmul_toNat, hrem]
  · simp [phaseAfterFeed, hlast]

/-- The FEEDs of some bytes, of as many as are to come or fewer, are the reference loop over them. -/
theorem State.Computing.feeds {data : List Byte} {s : State} {k a b : Nat} (h : s.Computing (data.length + k) a b) :
    ∃ t : State, acceptAll (data.map fun c => encode (.feed c)) s = .next t ∧
      t.Computing k (referenceLoop data a b (data.length + k)).1 (referenceLoop data a b (data.length + k)).2 := by
  induction data generalizing s a b with
  | nil => exact ⟨s, rfl, by simpa [referenceLoop] using h⟩
  | cons c cs ih =>
    have hlen : (c :: cs).length + k = cs.length + k + 1 := by simp; omega
    rw [hlen] at h ⊢
    rw [List.map_cons, acceptAll_cons_of_legal h.legal, decode_encode]
    exact ih (h.feed c)

/-- START with the number of some bytes, and their FEEDs, leave the digest of the reference function. -/
theorem acceptAll_computation {s : State} (hs : s.phase ≠ .reserved) {data : List Byte} (hlen : data.length ≤ 0x7FFFFFFF) :
    ∃ t : State, acceptAll (encode (.start (BitVec.ofNat 32 data.length)) :: data.map fun c => encode (.feed c)) s = .next t ∧
      t.phase = .done ∧ pack t.sumA t.sumB = compute data := by
  have hnat : (BitVec.ofNat 32 data.length).toNat = data.length := Nat.mod_eq_of_lt (by omega)
  have hstart := computing_start (len := BitVec.ofNat 32 data.length) (by bv_omega) s
  rw [hnat] at hstart
  obtain ⟨t, ht, hend⟩ := State.Computing.feeds (k := 0) hstart
  obtain ⟨-, hA, hB, hdone⟩ := hend
  rw [Nat.add_zero] at hA hB
  refine ⟨t, by rw [acceptAll_cons_of_legal hs, decode_encode, ht], hdone, ?_⟩
  simp [compute, pack, ← hA, ← hB]

/-- Settles O50: the START and the FEEDs leave the digest in the sums, and READ_DIGEST answers it behind their responses. -/
theorem checksumLineAnswersDigest : Obligations.ChecksumLineAnswersDigest := by
  intro s bs hs hwf
  refine ⟨by simp [asmWords], ?_⟩
  simp only [AsmLine.wellFormed, Bool.and_eq_true, decide_eq_true_eq] at hwf
  obtain ⟨hbound, -⟩ := hwf
  obtain ⟨t, ht, hdone, hdigest⟩ := acceptAll_computation hs (data := bs.map (BitVec.ofNat 8)) (by simpa using hbound)
  rw [List.length_map, List.map_map] at ht
  obtain ⟨rs, hlen, hq, -⟩ := everyWordGivesOneResponse _ s t ht
  have hlegal : t.phase ≠ .reserved := by simp [hdone]
  refine ⟨effectOf (.command .readDigest) t, rs, ?_, ?_, by simpa using hlen⟩
  · rw [asmWords]
    exact (acceptAll_append ht _).trans (by rw [acceptAll_cons_of_legal hlegal, decode_encode]; rfl)
  · simp [effectOf, hq, hdigest]

end Sys2Proof.Machine

namespace Sys2Proof.Machine

/-! ### The datapath (40_datapath) -/

/-- Settles O3: SUMB's new value by `add16_wmul_toNat`, and 65536 divides every `2^k` with `k >= 16`, so that the reduction of the
product is lost in that of the sum. -/
theorem weightWidthDoesNotMatter : Obligations.WeightWidthDoesNotMatter := by
  intro sumB rem c
  have hsum : (add16 sumB (wmul (rem.extractLsb' 0 16) c)).toNat = (sumB.toNat + rem.toNat * c.toNat) % 65536 :=
    add16_wmul_toNat sumB rem c
  refine ⟨hsum, fun k hk => ?_⟩
  have hdvd : 65536 ∣ 2 ^ k := pow_dvd_pow 2 hk
  rw [hsum, Nat.add_mod, Nat.mod_mod_of_dvd _ hdvd, ← Nat.add_mod]

/-- Wrapping at 65536 once or at each addition is the same: the adder is associative (R80). -/
theorem add16_assoc (a b c : Half) : add16 (add16 a b) c = add16 a (add16 b c) :=
  BitVec.eq_of_toNat_eq (by simp [add16_toNat, Nat.add_assoc])

/-- The operands of the adder can change places (R80). -/
theorem add16_comm (a b : Half) : add16 a b = add16 b a :=
  BitVec.eq_of_toNat_eq (by simp [add16_toNat, Nat.add_comm])

/-- Adding 0 changes nothing (R80). -/
@[simp] theorem add16_zero (a : Half) : add16 a 0x0000#16 = a :=
  BitVec.eq_of_toNat_eq (by simp [add16_toNat, Nat.mod_eq_of_lt a.isLt])

/-- Settles O1: the laws of addition modulo 65536, and the rule's corner cases by evaluation. -/
theorem add16WrapsModulo65536 : Obligations.Add16WrapsModulo65536 :=
  ⟨fun a b => ⟨add16_toNat a b, rfl, add16_comm a b, add16_zero a⟩, add16_assoc, by decide, by decide, by decide⟩

/-- The exact product of a weight and a byte is that of their greatest values at most (R81). -/
theorem weight_mul_byte_le (w : Half) (c : Byte) : w.toNat * c.toNat ≤ 0xFEFF01 :=
  Nat.mul_le_mul (Nat.le_of_lt_succ w.isLt) (Nat.le_of_lt_succ c.isLt)

/-- A zero byte weighs nothing (R81). -/
@[simp] theorem wmul_zero_byte (w : Half) : wmul w 0x00#8 = 0x0000#16 :=
  BitVec.eq_of_toNat_eq (by simp [wmul_toNat])

/-- A byte at a zero weight weighs nothing (R81). -/
@[simp] theorem wmul_zero_weight (c : Byte) : wmul 0x0000#16 c = 0x0000#16 :=
  BitVec.eq_of_toNat_eq (by simp [wmul_toNat])

/-- The weight of a multiple of `0x1_0000` is 0, the multiple wrapped to 32 bits or not (R81). -/
theorem weightOf_multiple (k : Nat) : weightOf (BitVec.ofNat 32 (0x10000 * k)) = 0x0000#16 := by
  refine BitVec.eq_of_toNat_eq ?_
  rw [weightOf_toNat, BitVec.toNat_ofNat, Nat.mod_mod_of_dvd _ (by decide), Nat.mul_mod_right]
  rfl

/-- FEED in RUN has its writes and answers OK (R100). -/
theorem effectOf_feed_of_run {s : State} (h : s.phase = .run) (c : Byte) :
    effectOf (.command (.feed c)) s = (s.feedWrites c).respondStatus .ok :=
  if_pos h

/-- FEED outside RUN is a PROTOCOL error (R101). -/
theorem effectOf_feed_of_not_run {s : State} (h : s.phase ≠ .run) (c : Byte) :
    effectOf (.command (.feed c)) s = s.raiseError .protocol :=
  if_neg h

/-- Settles O2: the product by `wmul_toNat`, and SUMB as `feedWrites` has it. -/
theorem wmulKeepsLow16BitsOfProduct : Obligations.WmulKeepsLow16BitsOfProduct := by
  refine ⟨fun w c => ⟨wmul_toNat w c, weight_mul_byte_le w c, wmul_zero_byte w, wmul_zero_weight c⟩,
    by decide, by decide, by decide, weightOf_multiple, fun s t c hrun h => ?_⟩
  obtain ⟨-, rfl⟩ := exec_next.1 h
  rw [effectOf_feed_of_run hrun]
  rfl

/-- In its domain the countdown is a subtraction of numbers (R84). -/
theorem dec32_toNat {r : Word} (h : 1#32 ≤ r) : (dec32 r).toNat = r.toNat - 1 := by
  rw [dec32_of_pos h]
  bv_omega

/-- In its domain the countdown does not wrap (R84). -/
theorem dec32_ne_max {r : Word} (h : 1#32 ≤ r) : dec32 r ≠ 0xFFFFFFFF#32 := by
  rw [dec32_of_pos h]
  bv_omega

/-- FEED counts REM down in RUN, and nowhere else (R84, R100, R101). -/
theorem effectOf_feed_rem (c : Byte) (s : State) :
    (effectOf (.command (.feed c)) s).rem = if s.phase = .run then dec32 s.rem else s.rem := by
  split
  · next hrun => simp [effectOf_feed_of_run hrun]
  · next hrun => simp [effectOf_feed_of_not_run hrun]

/-- Settles O4: the countdown in its domain, which the invariant gives in RUN, and FEED's two cases. -/
theorem countdownDecrements : Obligations.CountdownDecrements := by
  refine ⟨fun r hr => ⟨dec32_toNat hr, dec32_ne_max hr⟩, by decide, fun s hs hrun => ?_, fun s t c h => ?_⟩
  · obtain ⟨hregs, -⟩ := State.consistent_iff.1 hs
    exact hregs.run_iff.1 hrun
  · obtain ⟨-, rfl⟩ := exec_next.1 h
    exact effectOf_feed_rem c s

/-- A field of the digest word above bit 15 is one of SUMA (R85). -/
theorem pack_extractLsb'_high (a b : Half) {start : Nat} (h : 16 ≤ start) (len : Nat) :
    (pack a b).extractLsb' start len = a.extractLsb' (start - 16) len :=
  BitVec.extractLsb'_append_eq_of_le h

/-- A field of the digest word below bit 16 is one of SUMB (R85). -/
theorem pack_extractLsb'_low (a b : Half) {start len : Nat} (h : start + len ≤ 16) :
    (pack a b).extractLsb' start len = b.extractLsb' start len :=
  BitVec.extractLsb'_append_eq_of_add_le h

/-- A digest byte as a number (R44). -/
theorem digestByte_toNat (d : Word) (k : Fin 4) : (digestByte d k).toNat = d.toNat / 2 ^ (24 - 8 * k.val) % 256 := by
  simp [digestByte, Nat.shiftRight_eq_div_pow]

/-- The digest word is the big-endian reading of its bytes (R44). -/
theorem toNat_eq_digestBytes (d : Word) :
    d.toNat = (digestByte d 0).toNat * 2 ^ 24 + (digestByte d 1).toNat * 2 ^ 16 +
      (digestByte d 2).toNat * 2 ^ 8 + (digestByte d 3).toNat := by
  have h0 : (digestByte d 0).toNat = d.toNat / 2 ^ 24 % 256 := digestByte_toNat d 0
  have h1 : (digestByte d 1).toNat = d.toNat / 2 ^ 16 % 256 := digestByte_toNat d 1
  have h2 : (digestByte d 2).toNat = d.toNat / 2 ^ 8 % 256 := digestByte_toNat d 2
  have h3 : (digestByte d 3).toNat = d.toNat % 256 := by simp [digestByte_toNat]
  have hlt := d.isLt
  omega

/-- Settles O5: every byte of the packed word lies in one of the two halves, and a word is its four bytes. -/
theorem packOrdersDigestBytes : Obligations.PackOrdersDigestBytes := by
  refine ⟨fun a b => ⟨?_, ?_, ?_, ?_, ?_, ?_⟩, fun d k => rfl, toNat_eq_digestBytes, by decide⟩
  · rw [pack_extractLsb'_high a b (by decide), BitVec.extractLsb'_eq_self]
  · rw [pack_extractLsb'_low a b (by decide), BitVec.extractLsb'_eq_self]
  · exact pack_extractLsb'_high a b (by decide) 8
  · exact pack_extractLsb'_high a b (by decide) 8
  · exact pack_extractLsb'_low a b (by decide)
  · exact pack_extractLsb'_low a b (by decide)

end Sys2Proof.Machine

namespace Sys2Proof.Machine

/-! ### The two cases of START (41_session R91, R92) -/

/-- START with an accepted length has its writes and answers OK (R91). -/
theorem effectOf_start_of_lt {len : Word} (h : len < 0x80000000#32) (s : State) :
    effectOf (.command (.start len)) s = (s.startWrites len).respondStatus .ok := by
  rw [effectOf, (lenTooLarge_eq_false_iff len).2 h, if_neg Bool.false_ne_true]

/-- START with a length at the limit or above is a TOO_LARGE error (R92). -/
theorem effectOf_start_of_ge {len : Word} (h : 0x80000000#32 ≤ len) (s : State) :
    effectOf (.command (.start len)) s = s.raiseError .tooLarge := by
  rw [effectOf, if_pos ((lenTooLarge_iff len).2 h)]

/-! ### A computation among words that write no sum (41_session R95) -/

/-- A command's word is answered OK; of the answer to an illegal word nothing is said. -/
def AnsweredOk (w : CmdWord) (r : Response) : Prop :=
  (∃ i, decode w = .command i) → r.code = .ok

/-- The words lead from `s` to `t` and are answered by `rs` in order, with an error only for illegal words. -/
structure OkRun (ws : List CmdWord) (s t : State) (rs : List Response) : Prop where
  accepts : acceptAll ws s = .next t
  rspq_eq : t.rspq = s.rspq ++ rs
  taken_eq : t.taken = s.taken
  answered : List.Forall₂ AnsweredOk ws rs

/-- No words, no responses. -/
theorem OkRun.nil (s : State) : OkRun [] s s [] :=
  ⟨rfl, (List.append_nil _).symm, rfl, .nil⟩

/-- One more word in front. -/
theorem OkRun.cons {w : CmdWord} {ws : List CmdWord} {s t : State} {r : Response} {rs : List Response}
    (hs : s.phase ≠ .reserved) (hr : (effectOf (decode w) s).rspq = s.rspq ++ [r]) (hw : AnsweredOk w r)
    (h : OkRun ws (effectOf (decode w) s) t rs) : OkRun (w :: ws) s t (r :: rs) := by
  obtain ⟨haccepts, hrspq, htaken, hanswered⟩ := h
  obtain ⟨-, -, -, hports⟩ := effectOf_ports (decode w) s
  exact ⟨by rw [acceptAll_cons_of_legal hs, haccepts], by simp [hrspq, hr], htaken.trans hports, .cons hw hanswered⟩

/-- Every word of such a run has one response. -/
theorem OkRun.length_eq {ws : List CmdWord} {s t : State} {rs : List Response} (h : OkRun ws s t rs) :
    rs.length = ws.length :=
  h.answered.length_eq.symm

/-- In such a run a response is the answer to its own word. -/
theorem OkRun.code_of_mem_zip {ws : List CmdWord} {s t : State} {rs : List Response} (h : OkRun ws s t rs)
    {p : CmdWord × Response} (hp : p ∈ ws.zip rs) : AnsweredOk p.1 p.2 :=
  (List.forall₂_iff_zip.1 h.answered).2 hp

/-- A run of legal words adds no error response. -/
theorem OkRun.noErrorResponse {ws : List CmdWord} {s t : State} {rs : List Response} (h : OkRun ws s t rs)
    (hws : ∀ w ∈ ws, (opcodeOf w).toNat < 7) (hs : s.noErrorResponse) : t.noErrorResponse := by
  intro r hr
  rw [h.taken_eq, h.rspq_eq, ← List.append_assoc, List.mem_append] at hr
  obtain hold | hnew := hr
  · exact hs r hold
  · rw [← List.map_snd_zip h.length_eq.le, List.mem_map] at hnew
    obtain ⟨⟨w, r⟩, hp, rfl⟩ := hnew
    exact h.code_of_mem_zip hp (decode_command_of_lt (hws w (List.of_mem_zip hp).1))

/-- A word that writes no sum is answered OK, unless it is illegal. -/
theorem readsOnly_answeredOk {w : CmdWord} (h : readsOnly w = true) (s : State) :
    ∃ r : Response, (effectOf (decode w) s).rspq = s.rspq ++ [r] ∧ AnsweredOk w r := by
  unfold readsOnly at h
  split at h
  case h_5 op hop => exact ⟨_, by rw [hop]; rfl, by simp [AnsweredOk, hop]⟩
  case h_1 hd | h_2 hd | h_3 hd | h_4 hd => exact ⟨_, by rw [hd]; rfl, fun _ => rfl⟩
  all_goals simp at h

/-- A word that writes no sum leaves a computation where it stands. -/
theorem State.Computing.readsOnly {s : State} {n a b : Nat} (h : s.Computing n a b) {w : CmdWord}
    (hw : readsOnly w = true) : (effectOf (decode w) s).Computing n a b := by
  obtain ⟨hA, hB, hR, hP⟩ := effectOf_readsOnly hw s
  obtain ⟨hrem, hsumA, hsumB, hphase⟩ := h
  exact ⟨hR ▸ hrem, hA ▸ hsumA, hB ▸ hsumB, hP ▸ hphase⟩

/-- A word that writes no sum selects nothing of a session. -/
theorem sessionCommands_cons_readsOnly {w : CmdWord} (h : readsOnly w = true) (ws : List CmdWord) :
    sessionCommands (w :: ws) = sessionCommands ws := by
  simp [sessionCommands, h]

/-- Any other word selects the next command of a session. -/
theorem sessionCommands_cons_writer {w : CmdWord} (h : readsOnly w = false) (ws : List CmdWord) :
    sessionCommands (w :: ws) = decode w :: sessionCommands ws := by
  simp [sessionCommands, h]

/-- The FEEDs of some bytes, of as many as are to come or fewer, are the reference loop over them, whatever words that write no sum
stand in between. -/
theorem State.Computing.session {ws : List CmdWord} {data : List Byte} {s : State} {k a b : Nat}
    (h : s.Computing (data.length + k) a b) (hws : sessionCommands ws = data.map fun c => .command (.feed c)) :
    ∃ (t : State) (rs : List Response), OkRun ws s t rs ∧
      t.Computing k (referenceLoop data a b (data.length + k)).1 (referenceLoop data a b (data.length + k)).2 := by
  induction ws generalizing data s a b with
  | nil =>
    obtain rfl : data = [] := List.map_eq_nil_iff.1 hws.symm
    exact ⟨s, [], .nil s, by simpa [referenceLoop] using h⟩
  | cons w ws ih =>
    cases hw : Machine.readsOnly w with
    | true =>
      rw [sessionCommands_cons_readsOnly hw] at hws
      obtain ⟨r, hr, hok⟩ := readsOnly_answeredOk hw s
      obtain ⟨t, rs, hrun, hend⟩ := ih (h.readsOnly hw) hws
      exact ⟨t, r :: rs, hrun.cons h.legal hr hok, hend⟩
    | false =>
      rw [sessionCommands_cons_writer hw, eq_comm, List.map_eq_cons_iff] at hws
      obtain ⟨c, cs, rfl, hc, hcs⟩ := hws
      have hlen : (c :: cs).length + k = cs.length + k + 1 := by rw [List.length_cons]; omega
      rw [hlen] at h ⊢
      have hrun : s.phase = .run := by simpa using h.phase_eq
      have hr : (effectOf (decode w) s).rspq = s.rspq ++ [⟨.ok, (s.feedWrites c).status⟩] := by
        rw [← hc, effectOf_feed_of_run hrun]
        rfl
      obtain ⟨t, rs, hfeeds, hend⟩ := ih (hc ▸ h.feed c) hcs.symm
      exact ⟨t, _ :: rs, hfeeds.cons h.legal hr fun _ => rfl, hend⟩

/-- START and the FEEDs of some bytes, of as many as it names or fewer, with words that write no sum in between, are the reference
loop over those bytes from zero sums. -/
theorem okRun_computation {ws : List CmdWord} {data : List Byte} {s : State} {k : Nat} (hs : s.phase ≠ .reserved)
    (hlen : data.length + k ≤ 0x7FFFFFFF) (hws : sessionCommands ws = computationOf (data.length + k) data) :
    ∃ (t : State) (rs : List Response), OkRun ws s t rs ∧
      t.Computing k (referenceLoop data 0 0 (data.length + k)).1 (referenceLoop data 0 0 (data.length + k)).2 := by
  induction ws generalizing s with
  | nil => simp [sessionCommands, computationOf] at hws
  | cons w ws ih =>
    cases hw : readsOnly w with
    | true =>
      rw [sessionCommands_cons_readsOnly hw] at hws
      obtain ⟨r, hr, hok⟩ := readsOnly_answeredOk hw s
      obtain ⟨t, rs, hrun, hend⟩ := ih (effectOf_phase_ne_reserved _ hs) hws
      exact ⟨t, r :: rs, hrun.cons hs hr hok, hend⟩
    | false =>
      rw [sessionCommands_cons_writer hw, computationOf, List.cons.injEq] at hws
      obtain ⟨hstart, hfeeds⟩ := hws
      have hlt : BitVec.ofNat 32 (data.length + k) < 0x80000000#32 := by bv_omega
      have hnat : (BitVec.ofNat 32 (data.length + k)).toNat = data.length + k := Nat.mod_eq_of_lt (by omega)
      have hcomp := computing_start hlt s
      rw [hnat, ← hstart] at hcomp
      have hr : (effectOf (decode w) s).rspq = s.rspq ++ [⟨.ok, (s.startWrites (BitVec.ofNat 32 (data.length + k))).status⟩] := by
        rw [hstart, effectOf_start_of_lt hlt]
        rfl
      obtain ⟨t, rs, hrun, hend⟩ := hcomp.session hfeeds
      exact ⟨t, _ :: rs, hrun.cons hs hr fun _ => rfl, hend⟩

/-- The sums of the reference loop over all bytes, packed, are the digest (R13). -/
theorem State.Computing.digest {data : List Byte} {t : State} {n : Nat}
    (h : t.Computing n (referenceLoop data 0 0 data.length).1 (referenceLoop data 0 0 data.length).2) :
    pack t.sumA t.sumB = compute data := by
  simp [compute, pack, ← h.sumA_eq, ← h.sumB_eq]

/-- Settles O49: the words run as `okRun_computation` says, with no byte left to come, and READ_DIGEST answers the sums they leave. -/
theorem computationYieldsReferenceDigest : Obligations.ComputationYieldsReferenceDigest := by
  intro s data ws hs hlen hws
  obtain ⟨t, rs, hrun, hend⟩ := okRun_computation (k := 0) hs hlen hws
  have hdigest : pack t.sumA t.sumB = compute data := hend.digest
  have hrem : t.rem = 0#32 := BitVec.eq_of_toNat_eq hend.rem_eq
  refine ⟨t, rs, hrun.accepts, hend.phase_eq, hrem, hdigest, hrun.rspq_eq, hrun.length_eq, ?_, hrun.noErrorResponse, ?_⟩
  · rintro p hp ⟨c, hc⟩
    exact hrun.code_of_mem_zip hp ⟨_, hc⟩
  · intro w hw
    rw [acceptWord_of_legal hend.legal, hw, ← hdigest]
    rfl

/-! ### The transitions of PHASE (41_session R94) -/

/-- Settles O26: START's two cases by `effectOf_start_of_lt` and `effectOf_start_of_ge`, FEED's by the phase, and the words that
write no sum by `effectOf_readsOnly`. -/
theorem phaseTransitionsAreTheTable : Obligations.PhaseTransitionsAreTheTable := by
  refine ⟨fun w s t h => ?_, fun s t e hrst h => ?_⟩
  · obtain ⟨-, rfl⟩ := acceptWord_next.1 h
    refine ⟨fun len hw h0 => ?_, fun len hw hpos hle => ?_, fun len hw hge => ?_, fun hw => ?_, fun c hw hrun hlast => ?_,
      fun c hw hrun hmore => ?_, fun c hw hp => ?_, fun hw => ?_⟩
    · rw [hw, effectOf_start_of_lt (by bv_omega)]
      exact if_pos h0
    · rw [hw, effectOf_start_of_lt (by bv_omega)]
      exact if_neg (by bv_omega)
    · rw [hw, effectOf_start_of_ge hge, State.raiseError_phase]
    · rw [hw]
      rfl
    · rw [hw, effectOf_feed_of_run hrun]
      exact if_pos hlast
    · rw [hw, effectOf_feed_of_run hrun]
      exact if_neg (by bv_omega)
    · have hrun : s.phase ≠ .run := by obtain hp | hp := hp <;> simp [hp]
      rw [hw, effectOf_feed_of_not_run hrun, State.raiseError_phase]
    · obtain ⟨-, -, -, hphase⟩ := effectOf_readsOnly hw s
      exact hphase
  · rw [clockEdge_reset hrst] at h
    cases h
    rfl

/-! ### The session commands (41_session R90 to R93) -/

/-- Settles O12: opcode 0x00 decodes to NOP, whose effect is its response. -/
theorem nopResponds : Obligations.NopResponds :=
  ⟨fun w h => decode_nop ((masked_eq_iff w 0x00#8).1 h), fun _ hs => exec_next.2 ⟨hs, rfl⟩⟩

/-- The STATUS an accepted START answers. -/
theorem statusWord_phaseAfterStart (len : Word) :
    statusWord .ok (phaseAfterStart len) = if len = 0#32 then 0x00000002#32 else 0x00000001#32 := by
  unfold phaseAfterStart
  split <;> rfl

/-- Settles O13: opcode 0x01 decodes to START, and START's two cases by the length. -/
theorem startBeginsComputation : Obligations.StartBeginsComputation := by
  refine ⟨fun w h => decode_start ((masked_eq_iff w 0x01#8).1 h), fun s len hs hlen => exec_next.2 ⟨hs, ?_⟩,
    fun s len hs hlen => exec_next.2 ⟨hs, (effectOf_start_of_ge hlen s).symm⟩, by decide, rfl⟩
  rw [effectOf_start_of_lt hlen, ← statusWord_phaseAfterStart]
  rfl

/-- Settles O14: the length is too large, and an error writes ERR only. -/
theorem startRefusesTooLarge : Obligations.StartRefusesTooLarge :=
  ⟨fun s _ hs hlen => exec_next.2 ⟨hs, (effectOf_start_of_ge hlen s).symm⟩, rfl⟩

/-- Settles O15: opcode 0x06 decodes to CLEAR, whose writes are those of reset. -/
theorem clearReturnsToIdle : Obligations.ClearReturnsToIdle := by
  refine ⟨fun w h => decode_clear ((masked_eq_iff w 0x06#8).1 h), fun s hs => ?_, fun s t h => ?_⟩
  · have hstatus : s.clearRegs.status = 0x00000000#32 :=
      show statusWord .ok .idle = 0x00000000#32 by decide
    rw [exec_eq_command, command_of_legal hs, effectOf, State.respondStatus, hstatus]
    rfl
  · obtain ⟨-, rfl⟩ := exec_next.1 h
    exact ⟨rfl, rfl, rfl, rfl, rfl⟩

/-- No command touches the ports or the host side, and every command appends one response to RSPQ. -/
theorem exec_frame {i : Instr} {s t : State} (h : exec i s = .next t) :
    SamePorts s t ∧ ∃ r : Response, t.rspq = s.rspq ++ [r] := by
  obtain ⟨-, rfl⟩ := exec_next.1 h
  obtain ⟨hdelays, hheld, hedges, htaken⟩ := effectOf_ports (.command i) s
  exact ⟨⟨hdelays.symm, hheld.symm, hedges.symm, htaken.symm⟩, effectOf_rspq _ s⟩

/-- Settles O31: the frame of every command, and a START that is too large is an error. -/
theorem sessionFrame : Obligations.SessionFrame := by
  refine ⟨fun s t len h => ?_, fun s t h => exec_frame h⟩
  obtain ⟨hports, hresponse⟩ := exec_frame h
  obtain ⟨-, rfl⟩ := exec_next.1 h
  refine ⟨hports, hresponse, fun hlen => ?_⟩
  rw [effectOf_start_of_ge hlen]
  exact ⟨rfl, rfl, rfl, rfl⟩

end Sys2Proof.Machine

namespace Sys2Proof.Machine

/-! ### FEED and the state in the middle of a computation (42_accumulate R100 to R103) -/

/-- A half word that is congruent to a number modulo 65536 is that number reduced. -/
theorem half_toNat_of_modEq {x : Half} {n : Nat} (h : x.toNat ≡ n [MOD 65536]) : x.toNat = n % 65536 :=
  (Nat.mod_eq_of_lt x.isLt).symm.trans h

/-- The sums of the reference loop, from zero, are the closed forms of R102 with the weights of the whole computation. -/
theorem State.Computing.closedForms {data : List Byte} {t : State} {n len : Nat}
    (h : t.Computing n (referenceLoop data 0 0 len).1 (referenceLoop data 0 0 len).2) :
    t.sumA.toNat = prefixSum data data.length % 65536 ∧ t.sumB.toNat = weightedSum len data data.length % 65536 := by
  have hA := referenceLoop_fst data 0 0 len
  have hB := referenceLoop_snd data 0 0 len
  rw [Nat.zero_add, ← h.sumA_eq] at hA
  rw [Nat.zero_add, ← h.sumB_eq] at hB
  exact ⟨half_toNat_of_modEq hA, half_toNat_of_modEq hB⟩

/-- R102: what START `len` and the FEEDs of `data` leave, with words that write no sum in between. -/
theorem acceptAll_midComputation {s : State} {len : Nat} {data : List Byte} {ws : List CmdWord} (hs : s.phase ≠ .reserved)
    (hlen : len ≤ 0x7FFFFFFF) (hdata : data.length ≤ len) (hws : sessionCommands ws = computationOf len data) :
    ∃ t : State, acceptAll ws s = .next t ∧ t.rem.toNat = len - data.length ∧
      t.sumA.toNat = prefixSum data data.length % 65536 ∧
      t.sumB.toNat = weightedSum len data data.length % 65536 ∧
      t.phase = if data.length = len then .done else .run := by
  obtain ⟨k, rfl⟩ := Nat.exists_eq_add_of_le hdata
  obtain ⟨t, rs, hrun, hend⟩ := okRun_computation hs hlen hws
  obtain ⟨hA, hB⟩ := hend.closedForms
  have hrem : t.rem.toNat = data.length + k - data.length := by rw [hend.rem_eq, Nat.add_sub_cancel_left]
  have hphase : t.phase = if data.length = data.length + k then .done else .run := by simp [hend.phase_eq]
  exact ⟨t, hrun.accepts, hrem, hA, hB, hphase⟩

/-- Settles O48: the general clause is `acceptAll_midComputation`, and the contrast with `prefixForm` is that clause at the bytes
0x41 and 0x42 of a computation of length 2. -/
theorem midComputationState : Obligations.MidComputationState := by
  refine ⟨fun s len data ws => acceptAll_midComputation, fun s hs => ?_⟩
  obtain ⟨t, ht, -, -, htB, -⟩ := acceptAll_midComputation (data := [0x41#8]) (len := 2)
    (ws := [encode (.start 2#32), encode (.feed 0x41#8)]) hs (by decide) (by decide) (by decide)
  obtain ⟨u, hu, -, -, huB, -⟩ := acceptAll_midComputation (data := [0x41#8, 0x42#8]) (len := 2)
    (ws := [encode (.start 2#32), encode (.feed 0x41#8), encode (.feed 0x42#8)]) hs (by decide) (by decide) (by decide)
  exact ⟨t, u, ht, BitVec.eq_of_toNat_eq htB, by decide, hu, BitVec.eq_of_toNat_eq huB, by decide⟩

/-- FEED in RUN answers the state with its writes and an OK (R100). -/
theorem exec_feed_of_run {s : State} (h : s.phase = .run) (c : Byte) :
    exec (.feed c) s = .next ((s.feedWrites c).respondStatus .ok) :=
  exec_next.2 ⟨by simp [h], (effectOf_feed_of_run h c).symm⟩

/-- FEED in RUN, inverted. -/
theorem eq_of_exec_feed {s t : State} {c : Byte} (hrun : s.phase = .run) (h : exec (.feed c) s = .next t) :
    t = (s.feedWrites c).respondStatus .ok := by
  rw [exec_feed_of_run hrun] at h
  cases h
  rfl

/-- FEED in IDLE and in DONE is a PROTOCOL error (R101). -/
theorem exec_feed_of_idle_or_done {s : State} (h : s.phase = .idle ∨ s.phase = .done) (c : Byte) :
    exec (.feed c) s = .next (s.raiseError .protocol) := by
  obtain h | h := h <;> exact exec_next.2 ⟨by simp [h], (effectOf_feed_of_not_run (by simp [h]) c).symm⟩

/-- At a multiple of 65536 the weight is 0 (R83, R100). -/
theorem weightOf_of_dvd {r : Word} (h : 65536 ∣ r.toNat) : weightOf r = 0x0000#16 :=
  BitVec.eq_of_toNat_eq (by rw [weightOf_toNat, Nat.mod_eq_zero_of_dvd h]; rfl)

/-- Settles O16: opcode 0x02 decodes to FEED of the low byte, FEED's two cases by the phase, and the corner cases by the laws of
`add16` and `wmul`. -/
theorem feedAccumulates : Obligations.FeedAccumulates := by
  refine ⟨fun w h => ?_, fun s c hrun => exec_feed_of_run hrun c, fun s c hp => exec_feed_of_idle_or_done hp c,
    fun s t hrun h => ?_, fun s t hrun hA h => ?_, fun s t c hrun hdvd h => ?_, rfl⟩
  · rw [decode_feed ((masked_eq_iff w 0x02#8).1 h), operandByte_operandOf]
  · obtain rfl := eq_of_exec_feed hrun h
    have hzero : byteAddend 0x00#8 = 0x0000#16 := rfl
    simp [hzero]
  · obtain rfl := eq_of_exec_feed hrun h
    have hwrap : add16 0xFF01#16 (byteAddend 0xFF#8) = 0x0000#16 := by decide
    simp [hA, hwrap]
  · obtain rfl := eq_of_exec_feed hrun h
    simp [weightOf_of_dvd hdvd]

/-- Settles O17: FEED outside RUN is an error, and an error writes ERR only. -/
theorem feedOutsideRunRaisesProtocol : Obligations.FeedOutsideRunRaisesProtocol :=
  ⟨fun _ c hp => exec_feed_of_idle_or_done hp c, rfl⟩

/-- Settles O18: of FEED's writes only those of the sums read the byte, and the response reads neither sum. -/
theorem everyByteIsValidInRun : Obligations.EveryByteIsValidInRun := fun _ c c' hrun =>
  ⟨_, _, exec_feed_of_run hrun c, exec_feed_of_run hrun c', rfl, rfl, rfl, rfl, rfl, _, rfl⟩

/-- Settles O30: the frame of every command, and FEED's two cases by the phase. -/
theorem feedFrame : Obligations.FeedFrame := by
  intro s t c h
  obtain ⟨hports, hresponse⟩ := exec_frame h
  obtain ⟨-, rfl⟩ := exec_next.1 h
  refine ⟨hports, hresponse, fun hrun => ?_, fun hrun => ?_⟩
  · rw [effectOf_feed_of_run hrun]
    rfl
  · rw [effectOf_feed_of_not_run hrun]
    exact ⟨rfl, rfl, rfl, rfl⟩

end Sys2Proof.Machine

namespace Sys2Proof.Machine

/-! ### The readouts (43_readout R110 to R112) -/

/-- READ_DIGEST answers the digest word, whatever that word is known to be (R110). -/
theorem exec_readDigest_of_pack_eq {s : State} {d : Word} (hs : s.phase ≠ .reserved) (hd : pack s.sumA s.sumB = d) :
    exec .readDigest s = .next (s.respond .ok d) :=
  exec_next.2 ⟨hs, hd ▸ rfl⟩

/-- PHASE = 0b11 is the encoding of no other phase (R26). -/
theorem Phase.bits_eq_reserved_iff (p : Phase) : p.bits = 0b11#2 ↔ p = .reserved := by
  cases p <;> decide

/-- Outside RUN no byte is expected (R25, R26). -/
theorem RegsLegal.rem_eq_zero_of_ne_run {a b : Half} {r : Word} {p : Phase} (h : RegsLegal a b r p) (hp : p ≠ .run) :
    r = 0#32 := by
  have hpos : ¬ 1#32 ≤ r := mt h.run_iff.2 hp
  bv_omega

/-- An accepted length, and so REM, has bit 31 clear (R25, decision D7). -/
theorem getLsbD_31_of_le {r : Word} (h : r ≤ 0x7FFFFFFF#32) : r.getLsbD 31 = false := by
  have hlt : r.toNat < 2 ^ 31 := Nat.lt_succ_of_le h
  exact Nat.testBit_lt_two_pow hlt

/-- Settles O19: opcode 0x03 decodes to READ_DIGEST, which answers the packed sums; the invariant makes them 0 in IDLE, and each byte
of the packed word lies in one of its halves. -/
theorem readDigestReturnsSums : Obligations.ReadDigestReturnsSums := by
  refine ⟨fun w h => decode_readDigest ((masked_eq_iff w 0x03#8).1 h), fun s hs => exec_readDigest_of_pack_eq hs rfl,
    fun s hs hidle => ?_, fun s data hdone hdata => exec_readDigest_of_pack_eq (by simp [hdone]) hdata, fun s t h => ?_⟩
  · obtain ⟨hregs, -⟩ := State.consistent_iff.1 hs
    obtain ⟨hA, hB, -⟩ := hregs.zero_of_idle hidle
    exact exec_readDigest_of_pack_eq hregs.phase_legal (by rw [hA, hB]; rfl)
  · obtain ⟨-, rfl⟩ := exec_next.1 h
    exact ⟨pack s.sumA s.sumB, rfl, pack_extractLsb'_high _ _ (by decide) 8, pack_extractLsb'_high _ _ (by decide) 8,
      pack_extractLsb'_low _ _ (by decide), pack_extractLsb'_low _ _ (by decide)⟩

/-- Settles O20: opcode 0x04 decodes to READ_STATUS, which answers STATUS; its fields are those of every STATUS word, and a command
that answers has a legal PHASE. -/
theorem readStatusReturnsStatus : Obligations.ReadStatusReturnsStatus := by
  refine ⟨fun w h => decode_readStatus ((masked_eq_iff w 0x04#8).1 h), fun s hs => exec_next.2 ⟨hs, rfl⟩, fun s t h => ?_⟩
  obtain ⟨hs, rfl⟩ := exec_next.1 h
  obtain ⟨hphase, herr, hzero⟩ := statusWord_fields s.err s.phase
  refine ⟨statusWord s.err s.phase, rfl, hzero, ?_, herr⟩
  rw [hphase]
  exact mt (Phase.bits_eq_reserved_iff s.phase).1 hs

/-- Settles O21: opcode 0x05 decodes to READ_REMAINING, which answers REM; its bounds are those of the invariant. -/
theorem readRemainingReturnsRem : Obligations.ReadRemainingReturnsRem := by
  refine ⟨fun w h => decode_readRemaining ((masked_eq_iff w 0x05#8).1 h), fun s hs => exec_next.2 ⟨hs, rfl⟩,
    fun s t hs h => ?_⟩
  obtain ⟨hregs, -⟩ := State.consistent_iff.1 hs
  obtain ⟨-, rfl⟩ := exec_next.1 h
  refine ⟨s.rem, rfl, getLsbD_31_of_le hregs.rem_le, fun hp => hregs.rem_eq_zero_of_ne_run ?_,
    fun hrun => ⟨hregs.run_iff.1 hrun, hregs.rem_le⟩⟩
  obtain hp | hp := hp <;> simp [hp]

end Sys2Proof.Machine

namespace Sys2Proof.Machine

/-! ### The code of a response, and what an error writes (60_exceptions R121 to R124) -/

/-- The code of the response to a decoded word, by the causes R123 lists. -/
def responseCode (d : Decoded) (s : State) : Code :=
  match d with
  | .illegal _ => .illegal
  | .command (.start len) => if 0x80000000#32 ≤ len then .tooLarge else .ok
  | .command (.feed _) => if s.phase = .run then .ok else .protocol
  | .command .nop | .command .readDigest | .command .readStatus | .command .readRemaining | .command .clear => .ok

/-- ILLEGAL is the answer to an illegal word alone. -/
theorem responseCode_eq_illegal_iff {d : Decoded} {s : State} :
    responseCode d s = .illegal ↔ ∃ op, d = .illegal op := by
  cases d with
  | illegal op => simp [responseCode]
  | command i => cases i <;> simp [responseCode, ite_eq_iff]

/-- PROTOCOL is the answer to FEED outside RUN alone. -/
theorem responseCode_eq_protocol_iff {d : Decoded} {s : State} :
    responseCode d s = .protocol ↔ (∃ c, d = .command (.feed c)) ∧ s.phase ≠ .run := by
  cases d with
  | illegal op => simp [responseCode]
  | command i => cases i <;> simp [responseCode, ite_eq_iff]

/-- TOO_LARGE is the answer to START with a length at the limit or above alone. -/
theorem responseCode_eq_tooLarge_iff {d : Decoded} {s : State} :
    responseCode d s = .tooLarge ↔ ∃ len, d = .command (.start len) ∧ 0x80000000#32 ≤ len := by
  cases d with
  | illegal op => simp [responseCode]
  | command i => cases i <;> simp [responseCode, ite_eq_iff]

/-- An effect answers with `responseCode`, and where that is an error the effect is `raiseError` (R121). -/
theorem effectOf_responseCode (d : Decoded) (s : State) :
    ∃ r : Response, (effectOf d s).rspq = s.rspq ++ [r] ∧ r.code = responseCode d s ∧
      (r.code ≠ .ok → effectOf d s = s.raiseError r.code) := by
  cases d with
  | illegal op => exact ⟨_, rfl, rfl, fun _ => rfl⟩
  | command i =>
    cases i with
    | nop | readDigest | readStatus | readRemaining | clear => exact ⟨_, rfl, rfl, fun hne => absurd rfl hne⟩
    | start len =>
      by_cases hlen : 0x80000000#32 ≤ len
      · rw [effectOf_start_of_ge hlen]
        exact ⟨_, rfl, (if_pos hlen).symm, fun _ => rfl⟩
      · rw [effectOf_start_of_lt (BitVec.not_le.1 hlen)]
        exact ⟨_, rfl, (if_neg hlen).symm, fun hne => absurd rfl hne⟩
    | feed c =>
      by_cases hrun : s.phase = .run
      · rw [effectOf_feed_of_run hrun]
        exact ⟨_, rfl, (if_pos hrun).symm, fun hne => absurd rfl hne⟩
      · rw [effectOf_feed_of_not_run hrun]
        exact ⟨_, rfl, (if_neg hrun).symm, fun _ => rfl⟩

/-- The response an error appends carries STATUS after the write of ERR. -/
theorem data_of_raiseError {s : State} {code : Code} {r : Response} (h : (s.raiseError code).rspq = s.rspq ++ [r]) :
    r.data = (s.raiseError code).status := by
  obtain rfl : (⟨code, statusWord code s.phase⟩ : Response) = r := by simpa using h
  rfl

/-- Settles O23: an answer other than OK is that of `raiseError`, by `effectOf_responseCode`. -/
theorem errorsArePrecise : Obligations.ErrorsArePrecise := by
  intro w s t r h hr hne
  obtain ⟨-, rfl⟩ := acceptWord_next.1 h
  obtain ⟨r', hr', -, hraise⟩ := effectOf_responseCode (decode w) s
  obtain rfl : r' = r := by simpa using hr'.symm.trans hr
  rw [hraise hne]
  rfl

/-- A word is illegal exactly when its opcode is 7 or more (R68). -/
theorem decode_eq_illegal_iff {w : CmdWord} : (∃ op, decode w = .illegal op) ↔ 7 ≤ (opcodeOf w).toNat := by
  refine ⟨fun ⟨op, hop⟩ => ?_, fun h => ⟨_, decode_illegal h⟩⟩
  by_contra hlt
  obtain ⟨i, hi⟩ := decode_command_of_lt (Nat.not_le.1 hlt)
  simp [hi] at hop

/-- FEED is opcode 0x02 (R65). -/
theorem decode_eq_feed_iff {w : CmdWord} : (∃ c, decode w = .command (.feed c)) ↔ opcodeOf w = 0x02#8 :=
  ⟨fun ⟨c, hc⟩ => by simpa [encode] using opcodeOf_of_decode hc, fun h => ⟨_, decode_feed h⟩⟩

/-- START is opcode 0x01, and its length the whole operand (R63, R65). -/
theorem decode_eq_start_iff {w : CmdWord} {len : Word} :
    decode w = .command (.start len) ↔ opcodeOf w = 0x01#8 ∧ operandOf w = len := by
  refine ⟨fun h => ?_, fun ⟨hop, hlen⟩ => by rw [decode_start hop, hlen]⟩
  have hop : opcodeOf w = 0x01#8 := by simpa [encode] using opcodeOf_of_decode h
  exact ⟨hop, by simpa [decode_start hop] using h⟩

/-- A legal PHASE other than RUN is IDLE or DONE (R26). -/
theorem Phase.ne_run_iff {p : Phase} (h : p ≠ .reserved) : p ≠ .run ↔ p = .idle ∨ p = .done := by
  cases p <;> simp_all

/-- Settles O24: the causes are those of `responseCode`, read at the word through the decoder. -/
theorem errorCausesAreComplete : Obligations.ErrorCausesAreComplete := by
  intro w s hs
  obtain ⟨r, hr, hcode, hraise⟩ := effectOf_responseCode (decode w) s
  refine ⟨_, r, acceptWord_of_legal hs w, hr, ?_, ?_, ?_, fun hne => ?_⟩
  · rw [hcode, responseCode_eq_illegal_iff, decode_eq_illegal_iff]
    rfl
  · rw [hcode, responseCode_eq_protocol_iff, decode_eq_feed_iff, Phase.ne_run_iff hs]
    rfl
  · rw [hcode, responseCode_eq_tooLarge_iff]
    simp only [decode_eq_start_iff, and_assoc, exists_and_left, exists_eq_left']
    rfl
  · rw [hraise hne] at hr ⊢
    exact ⟨rfl, data_of_raiseError hr⟩

/-- Settles O22: an illegal word decodes to its opcode, and an error writes ERR only. -/
theorem illegalWordRaisesIllegal : Obligations.IllegalWordRaisesIllegal :=
  ⟨fun _ _ hop hs => acceptWord_next.2 ⟨hs, by rw [decode_illegal hop]; rfl⟩, rfl⟩

/-! ### Where the machine stops (60_exceptions R136; 70_reset_and_hazards R151) -/

/-- Settles O28, by induction on the words: each has its effect, which leaves PHASE legal. -/
theorem everyWordHasItsStep : Obligations.EveryWordHasItsStep := by
  intro ws s hs
  induction ws generalizing s with
  | nil => exact ⟨s, rfl, hs⟩
  | cons w ws ih =>
    rw [acceptAll_cons_of_legal hs]
    exact ih _ (effectOf_phase_ne_reserved (decode w) hs)

/-- The host breaks its duty exactly where it withdraws or changes a word it holds (R60, R151). -/
theorem commandHeld_eq_false_iff {s : State} {e : PortEdge} :
    s.commandHeld e = false ↔ ∃ w, s.cmdHeld = some w ∧ (e.cmdValid = false ∨ e.cmdData ≠ w) := by
  unfold State.commandHeld
  split
  · next h => simp [h]
  · next w h => simp [h, imp_iff_not_or]

/-- Settles O43: no edge, a reset edge and an edge at which the duty is kept answer; the edges left are the two refusals. -/
theorem stepStopsNowhereElse : Obligations.StepStopsNowhereElse := by
  intro s
  cases hedges : s.edges with
  | nil => exact .inl ⟨s, step_nil hedges⟩
  | cons e rest =>
    rw [step_cons hedges]
    cases hrst : e.rst with
    | true => exact .inl ⟨_, clockEdge_reset hrst _⟩
    | false =>
      by_cases hp : s.phase = .reserved
      · exact .inr ⟨e, rest, rfl, hrst, .inl ⟨hp, clockEdge_of_reserved hrst hp⟩⟩
      · cases hh : (s.setEdges rest).commandHeld e with
        | true => exact .inl (clockEdge_answers hrst hp hh)
        | false =>
          exact .inr ⟨e, rest, rfl, hrst, .inr ⟨hp, clockEdge_of_not_held hrst hp hh,
            commandHeld_eq_false_iff.1 hh⟩⟩

end Sys2Proof.Machine

namespace Sys2Proof.Machine

/-! ### The ports' timing (70_reset_and_hazards R147) -/

/-- The words accepted at some edges are those of the first edge, and then those of the others. -/
theorem acceptedWords_cons (e : PortEdge) (es : List PortEdge) :
    acceptedWords (e :: es) = acceptedWords [e] ++ acceptedWords es := by
  rw [acceptedWords, acceptedWords, acceptedWords, ← List.map_append, ← List.filter_append, List.singleton_append]

/-- A state cannot be told apart from itself. -/
theorem SameResponses.refl (s : State) : SameResponses s s :=
  ⟨⟨rfl, rfl, rfl, rfl, rfl⟩, rfl⟩

/-- An edge without reset does what accepting its word, if it accepts one, does to a state with the same registers and responses. -/
theorem SameResponses.clockEdge {e : PortEdge} {s t v : State} (hsame : SameResponses s v) (hrst : e.rst = false)
    (h : clockEdge e s = .next t) : ∃ u : State, acceptAll (acceptedWords [e]) v = .next u ∧ SameResponses t u := by
  have htransfer : SameResponses (s.transfer e).beginAccept v := (beginAccept_sameResponses s e s.edges).trans hsame
  obtain ⟨hr, -⟩ | ⟨-, hp, -, ha, rfl⟩ | ⟨-, -, -, ha, rfl⟩ := clockEdge_cases h
  · simp [hrst] at hr
  · obtain ⟨⟨-, -, -, hphase, -⟩, -⟩ := hsame
    have hwords : acceptedWords [e] = [e.cmdData] := by simp [acceptedWords, ha]
    rw [hwords, acceptAll_cons_of_legal (hphase ▸ hp)]
    exact ⟨_, rfl, htransfer.accept _⟩
  · have hwords : acceptedWords [e] = [] := by simp [acceptedWords, ha]
    rw [hwords]
    exact ⟨v, rfl, htransfer⟩

/-- A run of edges without reset does what accepting its words does to a state with the same registers and responses. -/
theorem SameResponses.run {es : List PortEdge} {s t v : State} (hsame : SameResponses s v)
    (hrst : ∀ e ∈ es, e.rst = false) (hes : s.edges = es) (h : Sys2Proof.core.run es.length s = .next t) :
    t.edges = [] ∧ ∃ u : State, acceptAll (acceptedWords es) v = .next u ∧ SameResponses t u := by
  induction es generalizing s v with
  | nil => cases h; exact ⟨hes, v, rfl, hsame⟩
  | cons e es ih =>
    obtain ⟨he, hrst⟩ := List.forall_mem_cons.1 hrst
    obtain ⟨s', hstep, hrun⟩ := run_next h
    rw [step_cons hes] at hstep
    obtain ⟨v', hv', hsame'⟩ := SameResponses.clockEdge (s := s.setEdges es) hsame he hstep
    rw [acceptedWords_cons, acceptAll_append hv']
    exact ih hsame' hrst (clockEdge_edges hstep) hrun

/-- Settles O53, by the simulation `SameResponses` along the run; at the end of a host program RSPQ is empty, so that all responses are
taken. -/
theorem portTimingDoesNotMatter : Obligations.PortTimingDoesNotMatter := by
  intro s t hrst hrun
  obtain ⟨hedges, u, hu, hregs, hq⟩ := (SameResponses.refl s).run hrst rfl hrun
  refine ⟨u, hu, hregs, hedges, hq, fun ⟨_, _, hempty⟩ => ?_⟩
  rw [← hq, hempty, List.append_nil, State.observation]

/-- A front of RSPQ that waits `d` cycles is received by a host that is ready at `d + 1` edges without reset. -/
theorem taken_of_held_ready {held later : List PortEdge} {s t : State} {r : Response} {q : List Response} {d : Nat}
    {ds : List Nat} (hq : s.rspq = r :: q) (hd : s.rspDelays = d :: ds) (hlen : held.length = d + 1)
    (hheld : ∀ x ∈ held, x.rst = false ∧ x.rspReady = true) (hedges : s.edges = held ++ later)
    (h : Sys2Proof.core.run (d + 1) s = .next t) : t.taken = s.taken ++ [r] := by
  induction d generalizing s held q ds with
  | zero =>
    obtain ⟨x, rfl⟩ := List.length_eq_one_iff.1 hlen
    obtain ⟨u, hstep, hu⟩ := run_next h
    cases hu
    obtain ⟨-, hready⟩ := hheld x List.mem_cons_self
    obtain ⟨htransfers, -⟩ := responseTransfer s t x later hedges hstep
    obtain ⟨-, htaken, -⟩ := htransfers r q hq (rspValid_iff.2 ⟨by simp [hq], ds, hd⟩) hready
    exact htaken
  | succ d ih =>
    obtain ⟨x, held, rfl⟩ := List.exists_cons_of_length_eq_add_one hlen
    obtain ⟨⟨hrst, -⟩, hheld⟩ := List.forall_mem_cons.1 hheld
    obtain ⟨u, hstep, hu⟩ := run_next h
    have hwaits : s.FrontWaits (d + 1) := ⟨by simp [hq], ds, hd⟩
    have hv : s.rspValid = false := by simp [← Bool.not_eq_true, hwaits.rspValid_iff]
    obtain ⟨-, hkeeps⟩ := responseTransfer s u x (held ++ later) hedges hstep
    obtain ⟨htaken, hgrows⟩ := hkeeps (.inl hv)
    obtain ⟨rs, huq, -⟩ := hgrows hrst
    rw [step_cons hedges] at hstep
    obtain ⟨-, ds', hd'⟩ := (hwaits.setEdges _).clockEdge hrst hstep
    rw [ih (by rw [huq, hq, List.cons_append]) hd' (Nat.succ.inj hlen) hheld (clockEdge_edges hstep) hu, htaken]

/-- Settles O56: the response is received when its delay is over, and the invariant bounds the delay. -/
theorem heldReadyReceivesResponse : Obligations.HeldReadyReceivesResponse := by
  intro s t r q d ds held later hq hd hlen hheld hedges h
  refine ⟨taken_of_held_ready hq hd hlen hheld hedges h, fun hs => ?_⟩
  obtain ⟨-, hdelays⟩ := State.consistent_iff.1 hs
  exact hdelays.lt_latency d (by simp [hd])

/-- A word offered until it is accepted is accepted at the first edge at which `cmd_ready` is high. -/
theorem OffersUntilAccepted.accepts_eq {w : CmdWord} {es : Nat → PortEdge} {n : Nat} (h : OffersUntilAccepted w es)
    (hbefore : ∀ k, k < n → (es k).accepts = false) : (es n).accepts = (es n).cmdReady := by
  obtain ⟨hrst, hvalid, -⟩ := h n hbefore
  simp [PortEdge.accepts, hrst, hvalid]

/-- Under weak fairness such a word is accepted at some edge, and so at a first one. -/
theorem OffersUntilAccepted.exists_first_accept {w : CmdWord} {es : Nat → PortEdge} (h : OffersUntilAccepted w es)
    (hfair : FairCommandPort es) : ∃ n, (es n).accepts = true ∧ ∀ k, k < n → (es k).accepts = false := by
  have hserved : ∃ n, (es n).accepts = true := by
    by_contra hnever
    have hstalls : ∀ k, (es k).accepts = false := by simpa using hnever
    obtain ⟨m, -, hready⟩ := hfair 0 fun m _ =>
      have ⟨hrst, hvalid, _⟩ := h m fun k _ => hstalls k
      ⟨hrst, hvalid⟩
    exact hnever ⟨m, (h.accepts_eq fun k _ => hstalls k).trans hready⟩
  exact ⟨Nat.find hserved, Nat.find_spec hserved, fun k hk => Bool.eq_false_of_not_eq_true (Nat.find_min hserved hk)⟩

/-- There are `n` first edges. -/
@[simp] theorem length_firstEdges (es : Nat → PortEdge) (n : Nat) : (firstEdges es n).length = n := by
  simp [firstEdges]

/-- One edge more of a drive comes behind those before it. -/
theorem firstEdges_succ (es : Nat → PortEdge) (n : Nat) : firstEdges es (n + 1) = firstEdges es n ++ [es n] := by
  rw [firstEdges, List.range_succ, List.map_append]
  rfl

/-- What holds of the edges of a drive before the `n`-th holds of the first `n` edges. -/
theorem forall_mem_firstEdges {es : Nat → PortEdge} {n : Nat} {p : PortEdge → Prop} :
    (∀ x ∈ firstEdges es n, p x) ↔ ∀ k, k < n → p (es k) := by
  simp [firstEdges]

/-- Settles O57: fairness gives a first edge that accepts the word, the edges before it stall, and such a run is that of
`heldCommandIsAcceptedWhenReady`; that no edge is left is a clause of `portTimingDoesNotMatter`. -/
theorem fairHostIsServed : Obligations.FairHostIsServed := by
  intro s w es hp hheld hoffer hfair
  obtain ⟨n, hn, hbefore⟩ := hoffer.exists_first_accept hfair
  have hbefore' : ∀ k, k ≤ n → ∀ j, j < k → (es j).accepts = false := fun k hk j hj => hbefore j (hj.trans_le hk)
  have hstalls : ∀ x ∈ firstEdges es n, x.rst = false ∧ x.cmdValid = true ∧ x.cmdData = w ∧ x.cmdReady = false :=
    forall_mem_firstEdges.2 fun k hk => by
      obtain ⟨hrst, hvalid, hdata⟩ := hoffer k (hbefore' k hk.le)
      exact ⟨hrst, hvalid, hdata, (hoffer.accepts_eq (hbefore' k hk.le)).symm.trans (hbefore k hk)⟩
  have hnoReset : ∀ x ∈ firstEdges es (n + 1), x.rst = false := forall_mem_firstEdges.2 fun k hk => by
    obtain ⟨hrst, -⟩ := hoffer k (hbefore' k (Nat.le_of_lt_succ hk))
    exact hrst
  obtain ⟨hrst, hvalid, hdata⟩ := hoffer n hbefore
  have hready : (es n).cmdReady = true := (hoffer.accepts_eq hbefore).symm.trans hn
  obtain ⟨t, u, hrun, hu, hregs, hcmd, hq⟩ := heldCommandIsAcceptedWhenReady (s.setEdges (firstEdges es (n + 1))) w
    (firstEdges es n) (es n) hp hheld hstalls hrst hvalid hdata hready (firstEdges_succ es n)
  rw [length_firstEdges] at hrun
  obtain ⟨-, -, -, hedges, -⟩ := portTimingDoesNotMatter (s.setEdges (firstEdges es (n + 1))) t hnoReset
    (by rwa [State.setEdges_edges, length_firstEdges])
  obtain ⟨-, rfl⟩ := acceptWord_next.1 hu
  have hdrive : SameResponses (s.setEdges (firstEdges es (n + 1))) s := SameResponses.refl s
  obtain ⟨hregs', hq'⟩ : SameResponses t (effectOf (decode w) s) := SameResponses.trans ⟨hregs, hq⟩ (hdrive.accept _)
  exact ⟨n, t, _, hn, hbefore, hrun, acceptWord_of_legal hp w, hregs', hcmd, hedges, hq'⟩

/-! ### Reset (70_reset_and_hazards R140, R141) -/

/-- Settles O35: the reset state, field by field. -/
theorem resetStateValues : Obligations.ResetStateValues :=
  ⟨rfl, rfl, rfl, rfl, rfl, by decide, rfl, rfl, rfl, rfl, rfl, rfl, rfl⟩

/-- What the host receives at an edge: the front of RSPQ where `rsp_valid` and `rsp_ready` are 1. -/
theorem transfer_taken (s : State) (e : PortEdge) :
    (s.transfer e).taken = s.taken ++ if s.rspValid && e.rspReady then s.rspq.head?.toList else [] := by
  unfold State.transfer
  split <;> simp

/-- With nothing queued and no delay pending the response port does nothing. -/
theorem transfer_of_nil {s : State} (hq : s.rspq = []) (hd : s.rspDelays = []) (e : PortEdge) : s.transfer e = s := by
  rw [transfer_of_not (by simp [State.rspValid, hq]), hd, cyclePasses_nil, ← hd]

/-- A further reset edge takes nothing from the empty RSPQ and leaves the reset registers as they are. -/
theorem clockEdge_reset_again {e : PortEdge} (h : e.rst = true) (s : State) (rest : List PortEdge) :
    clockEdge e (s.resetEngine.setEdges rest) = .next (s.resetEngine.setEdges rest) := by
  rw [clockEdge_reset h, transfer_of_nil rfl rfl]
  rfl

/-- Settles O36: the views of the registers have the values of `resetStateValues`, and what the host receives is the transfer's. -/
theorem resetEdgeFromAnyState : Obligations.ResetEdgeFromAnyState := by
  intro s e rest hedges hrst
  obtain ⟨-, -, -, -, -, hstatus, -, hdigest, hphase, -⟩ := resetStateValues
  rw [step_cons hedges, clockEdge_reset hrst]
  refine ⟨_, rfl, ⟨rfl, rfl, rfl, rfl, rfl⟩, rfl, hstatus, hdigest, hphase, rfl, by simp,
    transfer_taken (s.setEdges rest) e, fun e' rest' hrest hrst' => ?_⟩
  rw [step_cons (by simpa using hrest)]
  exact clockEdge_reset_again hrst' _ rest'

/-! ### Past the end of a computation (70_reset_and_hazards R146) -/

/-- A FEED in DONE writes ERR only, and its response carries the STATUS of DONE and PROTOCOL (R101). -/
theorem effectOf_feed_of_done {s : State} (h : s.phase = .done) (c : Byte) :
    effectOf (.command (.feed c)) s =
      { s with err := .protocol, rspq := s.rspq ++ [⟨.protocol, 0x0000000A#32⟩] } := by
  have hstatus : statusWord .protocol s.phase = 0x0000000A#32 := by rw [h]; decide
  rw [effectOf_feed_of_not_run (by simp [h]), ← hstatus]
  rfl

/-- Settles O52, by induction on the bytes: each FEED leaves DONE, and the first leaves ERR as all later ones do. -/
theorem feedsPastTheEndAreDiscarded : Obligations.FeedsPastTheEndAreDiscarded := by
  intro s data hdone hne
  refine ⟨_, ?_, rfl⟩
  induction data generalizing s with
  | nil => exact absurd rfl hne
  | cons c cs ih =>
    rw [List.map_cons, acceptAll_cons_of_legal (by simp [hdone]), decode_encode, effectOf_feed_of_done hdone]
    by_cases hcs : cs = []
    · subst hcs
      rfl
    · rw [ih]
      case hdone => exact hdone
      case hne => exact hcs
      simp [List.replicate_succ]

end Sys2Proof.Machine
